-- ==== Sys2Proof/Word.lean ====
section
/-!
DEFINITION. The word types of the command set: the 32-bit packet, status and result word (00_scope.md R6, R10), the
payload byte (R10) and the 3-bit register index of a header (R6).
-/

namespace Sys2Proof

/-- `u32` of 00_scope.md R10: a header, an operand word, an IdReg, STATUS or a result register. -/
abbrev Word := BitVec 32

/-- `byte` of 00_scope.md R10: one payload lane. -/
abbrev Byte := BitVec 8

/-- A register index field A or B of a header, 3 bits wide (00_scope.md R6, 30_encoding.md R71). -/
abbrev RegIdx := BitVec 3

end Sys2Proof
end

