-- ==== Sys2Proof/Syntax.lean ====
section
/-!
DEFINITION. The abstract syntax of the command set: `Mnemonic` names the 38 rows of the opcode map (30_encoding.md R81) and
`Instr` is a command with its operands, one constructor per row. A command carries its header fields and its operand words
as presented: an Id operand is validated when the command executes, because IndexRange comes before InvalidIdentifier
(60_exceptions.md R249), and ignored payload lanes are no error (30_encoding.md R76).
-/

namespace Sys2Proof

/-- The rows of the opcode map of 30_encoding.md R81. -/
inductive Mnemonic where
  | idStd
  | idExt
  | idRtr
  | idIsExt
  | idIsStd
  | idGetRtr
  | idToId
  | idCmp
  | idRaw
  | dataNew
  | dataEmpty
  | dataLen
  | dataIsEmpty
  | dataView
  | dataRdb
  | dataWrb
  | dataEq
  | dataFrom0
  | dataFrom1
  | dataFrom2
  | dataFrom3
  | dataFrom4
  | dataFrom5
  | dataFrom6
  | dataFrom7
  | dataFrom8
  | frmNewd
  | frmNewr
  | frmIsExt
  | frmIsStd
  | frmIsRem
  | frmIsData
  | frmId
  | frmDlc
  | frmData
  | frmPrio
  | priCmp
  | arbSel
deriving DecidableEq, Repr

/-- One command with its operands: A and B are register indices, `w1` and `w2` operand words, the rest the IMM subfields of
30_encoding.md R77. -/
inductive Instr where
  /-- `ID.STD` (rule R110): pack a standard identifier. -/
  | idStd (a : RegIdx) (w1 : Word)
  /-- `ID.EXT` (rule R111): pack an extended identifier. -/
  | idExt (a : RegIdx) (w1 : Word)
  /-- `ID.RTR` (rule R112): replace the RTR bit. -/
  | idRtr (a : RegIdx) (b : RegIdx) (f : BitVec 1)
  /-- `ID.ISEXT` (rule R113): test for the extended format. -/
  | idIsExt (a : RegIdx)
  /-- `ID.ISSTD` (rule R114): test for the standard format. -/
  | idIsStd (a : RegIdx)
  /-- `ID.GETRTR` (rule R115): read the RTR bit. -/
  | idGetRtr (a : RegIdx)
  /-- `ID.TOID` (rule R116): unpack the logical Id. -/
  | idToId (a : RegIdx)
  /-- `ID.CMP` (rule R117): compare two IdRegs. -/
  | idCmp (a : RegIdx) (b : RegIdx)
  /-- `ID.RAW` (rule R118): export the packed register. -/
  | idRaw (a : RegIdx)
  /-- `DATA.NEW` (rule R143): build a Data of LEN lanes. -/
  | dataNew (a : RegIdx) (len : BitVec 8) (w1 : Word) (w2 : Word)
  /-- `DATA.EMPTY` (rule R144): build the empty payload. -/
  | dataEmpty (a : RegIdx)
  /-- `DATA.LEN` (rule R155): read the valid byte count. -/
  | dataLen (a : RegIdx)
  /-- `DATA.ISEMPTY` (rule R156): test for zero length. -/
  | dataIsEmpty (a : RegIdx)
  /-- `DATA.VIEW` (rule R157): read the whole bounded view. -/
  | dataView (a : RegIdx)
  /-- `DATA.RDB` (rule R158): read one byte. -/
  | dataRdb (a : RegIdx) (idx : BitVec 3)
  /-- `DATA.WRB` (rule R159): write one byte. -/
  | dataWrb (a : RegIdx) (idx : BitVec 3) (byte : Byte)
  /-- `DATA.EQ` (rule R160): compare two payloads. -/
  | dataEq (a : RegIdx) (b : RegIdx)
  /-- `DATA.FROM0` (rule R146): the conversion from a 0-byte sequence. -/
  | dataFrom0 (a : RegIdx)
  /-- `DATA.FROM1` (rule R147): the conversion from a 1-byte sequence. -/
  | dataFrom1 (a : RegIdx) (w1 : Word)
  /-- `DATA.FROM2` (rule R148): the conversion from a 2-byte sequence. -/
  | dataFrom2 (a : RegIdx) (w1 : Word)
  /-- `DATA.FROM3` (rule R149): the conversion from a 3-byte sequence. -/
  | dataFrom3 (a : RegIdx) (w1 : Word)
  /-- `DATA.FROM4` (rule R150): the conversion from a 4-byte sequence. -/
  | dataFrom4 (a : RegIdx) (w1 : Word)
  /-- `DATA.FROM5` (rule R151): the conversion from a 5-byte sequence. -/
  | dataFrom5 (a : RegIdx) (w1 : Word) (w2 : Word)
  /-- `DATA.FROM6` (rule R152): the conversion from a 6-byte sequence. -/
  | dataFrom6 (a : RegIdx) (w1 : Word) (w2 : Word)
  /-- `DATA.FROM7` (rule R153): the conversion from a 7-byte sequence. -/
  | dataFrom7 (a : RegIdx) (w1 : Word) (w2 : Word)
  /-- `DATA.FROM8` (rule R154): the conversion from a 8-byte sequence. -/
  | dataFrom8 (a : RegIdx) (w1 : Word) (w2 : Word)
  /-- `FRM.NEWD` (rule R181): build a data frame. -/
  | frmNewd (a : RegIdx) (b : RegIdx) (w1 : Word)
  /-- `FRM.NEWR` (rule R182): build a remote frame. -/
  | frmNewr (a : RegIdx) (dlc : BitVec 8) (w1 : Word)
  /-- `FRM.ISEXT` (rule R183): test for the extended format. -/
  | frmIsExt (a : RegIdx)
  /-- `FRM.ISSTD` (rule R184): test for the standard format. -/
  | frmIsStd (a : RegIdx)
  /-- `FRM.ISREM` (rule R185): test for a remote frame. -/
  | frmIsRem (a : RegIdx)
  /-- `FRM.ISDATA` (rule R186): test for a data frame. -/
  | frmIsData (a : RegIdx)
  /-- `FRM.ID` (rule R187): read the logical Id. -/
  | frmId (a : RegIdx)
  /-- `FRM.DLC` (rule R188): read the DLC. -/
  | frmDlc (a : RegIdx)
  /-- `FRM.DATA` (rule R189): read the payload of a data frame. -/
  | frmData (a : RegIdx) (b : RegIdx)
  /-- `FRM.PRIO` (rule R190): obtain the priority key. -/
  | frmPrio (a : RegIdx) (b : RegIdx)
  /-- `PRI.CMP` (rule R221): compare two frame priorities. -/
  | priCmp (a : RegIdx) (b : RegIdx)
  /-- `ARB.SEL` (rule R222): the priority encoder. -/
  | arbSel (mask : BitVec 8)
deriving DecidableEq, Repr

/-- The row of the opcode map a command belongs to. -/
def Instr.mnemonic : Instr → Mnemonic
  | .idStd _ _ => .idStd
  | .idExt _ _ => .idExt
  | .idRtr _ _ _ => .idRtr
  | .idIsExt _ => .idIsExt
  | .idIsStd _ => .idIsStd
  | .idGetRtr _ => .idGetRtr
  | .idToId _ => .idToId
  | .idCmp _ _ => .idCmp
  | .idRaw _ => .idRaw
  | .dataNew _ _ _ _ => .dataNew
  | .dataEmpty _ => .dataEmpty
  | .dataLen _ => .dataLen
  | .dataIsEmpty _ => .dataIsEmpty
  | .dataView _ => .dataView
  | .dataRdb _ _ => .dataRdb
  | .dataWrb _ _ _ => .dataWrb
  | .dataEq _ _ => .dataEq
  | .dataFrom0 _ => .dataFrom0
  | .dataFrom1 _ _ => .dataFrom1
  | .dataFrom2 _ _ => .dataFrom2
  | .dataFrom3 _ _ => .dataFrom3
  | .dataFrom4 _ _ => .dataFrom4
  | .dataFrom5 _ _ _ => .dataFrom5
  | .dataFrom6 _ _ _ => .dataFrom6
  | .dataFrom7 _ _ _ => .dataFrom7
  | .dataFrom8 _ _ _ => .dataFrom8
  | .frmNewd _ _ _ => .frmNewd
  | .frmNewr _ _ _ => .frmNewr
  | .frmIsExt _ => .frmIsExt
  | .frmIsStd _ => .frmIsStd
  | .frmIsRem _ => .frmIsRem
  | .frmIsData _ => .frmIsData
  | .frmId _ => .frmId
  | .frmDlc _ => .frmDlc
  | .frmData _ _ => .frmData
  | .frmPrio _ _ => .frmPrio
  | .priCmp _ _ => .priCmp
  | .arbSel _ => .arbSel

end Sys2Proof
end

