-- ==== Sys2Proof/Decode.lean ====
section
/-!
DEFINITION. Command encoding: the decoder, total on any list of words (30_encoding.md R82), and an encoder written from the same
encoding table (R71, R81). The decoder reads the opcode map as R81 prints it (opcode, operand-word count, mask of fixed bits);
the encoder writes each command's words directly.
-/

namespace Sys2Proof

/-- OP, `H[31:24]` (30_encoding.md R71). -/
def headerOp (h : Word) : BitVec 8 := h.extractLsb' 24 8

/-- Field A, `H[23:21]` (30_encoding.md R71). -/
def headerA (h : Word) : RegIdx := h.extractLsb' 21 3

/-- Field B, `H[20:18]` (30_encoding.md R71). -/
def headerB (h : Word) : RegIdx := h.extractLsb' 18 3

/-- The subfield `IMM[7:0]`: LEN, BYTE, DLC or MASK (30_encoding.md R77). -/
def immLow (h : Word) : BitVec 8 := h.extractLsb' 0 8

/-- The subfield `IMM[10:8]`: IDX (30_encoding.md R77). -/
def immIdx (h : Word) : BitVec 3 := h.extractLsb' 8 3

/-- The subfield `IMM[0]`: F (30_encoding.md R77). -/
def immFlag (h : Word) : BitVec 1 := h.extractLsb' 0 1

/-- The column OP of the opcode map (30_encoding.md R81). -/
def opcode : Mnemonic → BitVec 8
  | .idStd => 0x10
  | .idExt => 0x11
  | .idRtr => 0x12
  | .idIsExt => 0x13
  | .idIsStd => 0x14
  | .idGetRtr => 0x15
  | .idToId => 0x16
  | .idCmp => 0x17
  | .idRaw => 0x18
  | .dataNew => 0x20
  | .dataEmpty => 0x21
  | .dataLen => 0x22
  | .dataIsEmpty => 0x23
  | .dataView => 0x24
  | .dataRdb => 0x25
  | .dataWrb => 0x26
  | .dataEq => 0x27
  | .dataFrom0 => 0x30
  | .dataFrom1 => 0x31
  | .dataFrom2 => 0x32
  | .dataFrom3 => 0x33
  | .dataFrom4 => 0x34
  | .dataFrom5 => 0x35
  | .dataFrom6 => 0x36
  | .dataFrom7 => 0x37
  | .dataFrom8 => 0x38
  | .frmNewd => 0x40
  | .frmNewr => 0x41
  | .frmIsExt => 0x42
  | .frmIsStd => 0x43
  | .frmIsRem => 0x44
  | .frmIsData => 0x45
  | .frmId => 0x46
  | .frmDlc => 0x47
  | .frmData => 0x48
  | .frmPrio => 0x49
  | .priCmp => 0x50
  | .arbSel => 0x51

/-- The column `words` of the opcode map: how many operand words follow the header (30_encoding.md R72, R81). -/
def operandCount : Mnemonic → Nat
  | .idStd => 1
  | .idExt => 1
  | .idRtr => 0
  | .idIsExt => 0
  | .idIsStd => 0
  | .idGetRtr => 0
  | .idToId => 0
  | .idCmp => 0
  | .idRaw => 0
  | .dataNew => 2
  | .dataEmpty => 0
  | .dataLen => 0
  | .dataIsEmpty => 0
  | .dataView => 0
  | .dataRdb => 0
  | .dataWrb => 0
  | .dataEq => 0
  | .dataFrom0 => 0
  | .dataFrom1 => 1
  | .dataFrom2 => 1
  | .dataFrom3 => 1
  | .dataFrom4 => 1
  | .dataFrom5 => 2
  | .dataFrom6 => 2
  | .dataFrom7 => 2
  | .dataFrom8 => 2
  | .frmNewd => 1
  | .frmNewr => 1
  | .frmIsExt => 0
  | .frmIsStd => 0
  | .frmIsRem => 0
  | .frmIsData => 0
  | .frmId => 0
  | .frmDlc => 0
  | .frmData => 0
  | .frmPrio => 0
  | .priCmp => 0
  | .arbSel => 0

/-- The column `mask` of the opcode map: the opcode and the reserved bits (30_encoding.md R79, R81). -/
def fixedMask : Mnemonic → Word
  | .idStd => 0xFF1FFFFF
  | .idExt => 0xFF1FFFFF
  | .idRtr => 0xFF03FFFE
  | .idIsExt => 0xFF1FFFFF
  | .idIsStd => 0xFF1FFFFF
  | .idGetRtr => 0xFF1FFFFF
  | .idToId => 0xFF1FFFFF
  | .idCmp => 0xFF03FFFF
  | .idRaw => 0xFF1FFFFF
  | .dataNew => 0xFF1FFF00
  | .dataEmpty => 0xFF1FFFFF
  | .dataLen => 0xFF1FFFFF
  | .dataIsEmpty => 0xFF1FFFFF
  | .dataView => 0xFF1FFFFF
  | .dataRdb => 0xFF1FF8FF
  | .dataWrb => 0xFF1FF800
  | .dataEq => 0xFF03FFFF
  | .dataFrom0 => 0xFF1FFFFF
  | .dataFrom1 => 0xFF1FFFFF
  | .dataFrom2 => 0xFF1FFFFF
  | .dataFrom3 => 0xFF1FFFFF
  | .dataFrom4 => 0xFF1FFFFF
  | .dataFrom5 => 0xFF1FFFFF
  | .dataFrom6 => 0xFF1FFFFF
  | .dataFrom7 => 0xFF1FFFFF
  | .dataFrom8 => 0xFF1FFFFF
  | .frmNewd => 0xFF03FFFF
  | .frmNewr => 0xFF1FFF00
  | .frmIsExt => 0xFF1FFFFF
  | .frmIsStd => 0xFF1FFFFF
  | .frmIsRem => 0xFF1FFFFF
  | .frmIsData => 0xFF1FFFFF
  | .frmId => 0xFF1FFFFF
  | .frmDlc => 0xFF1FFFFF
  | .frmData => 0xFF03FFFF
  | .frmPrio => 0xFF03FFFF
  | .priCmp => 0xFF03FFFF
  | .arbSel => 0xFFFFFF00

/-- The column `match` of the opcode map: the header with all fields 0 (30_encoding.md R81). -/
def headerMatch (m : Mnemonic) : Word := (opcode m).zeroExtend 32 <<< 24

/-- The IdReg rows of the opcode map. -/
def idRows : List Mnemonic :=
  [.idStd, .idExt, .idRtr, .idIsExt, .idIsStd, .idGetRtr, .idToId, .idCmp, .idRaw]

/-- The Data rows of the opcode map. -/
def dataRows : List Mnemonic :=
  [.dataNew, .dataEmpty, .dataLen, .dataIsEmpty, .dataView, .dataRdb, .dataWrb, .dataEq, .dataFrom0,
   .dataFrom1, .dataFrom2, .dataFrom3, .dataFrom4, .dataFrom5, .dataFrom6, .dataFrom7, .dataFrom8]

/-- The Frame rows of the opcode map. -/
def frmRows : List Mnemonic :=
  [.frmNewd, .frmNewr, .frmIsExt, .frmIsStd, .frmIsRem, .frmIsData, .frmId, .frmDlc, .frmData, .frmPrio]

/-- The FramePriority and arbiter rows of the opcode map. -/
def priRows : List Mnemonic :=
  [.priCmp, .arbSel]

/-- All rows of the opcode map (30_encoding.md R81). -/
def opcodeTable : List Mnemonic := idRows ++ dataRows ++ frmRows ++ priRows

/-- The row an opcode selects; `none` for an unassigned opcode (30_encoding.md R80, R82). -/
def rowOf (op : BitVec 8) : Option Mnemonic := opcodeTable.find? fun m => opcode m == op

/-- The number of operand words of a packet, from its header alone; an unassigned opcode takes none (30_encoding.md R72). -/
def packetOperands (h : Word) : Nat :=
  match rowOf (headerOp h) with
  | some m => operandCount m
  | none => 0

/-- No reserved bit of the header is set: `(H & mask) == match` (30_encoding.md R79). -/
def headerLegal (m : Mnemonic) (h : Word) : Bool := h &&& fixedMask m == headerMatch m

/-- The command of a row, its fields taken from the header and its operand words (30_encoding.md R71, R77, R82). -/
def build (h w1 w2 : Word) : Mnemonic → Instr
  | .idStd => .idStd (headerA h) w1
  | .idExt => .idExt (headerA h) w1
  | .idRtr => .idRtr (headerA h) (headerB h) (immFlag h)
  | .idIsExt => .idIsExt (headerA h)
  | .idIsStd => .idIsStd (headerA h)
  | .idGetRtr => .idGetRtr (headerA h)
  | .idToId => .idToId (headerA h)
  | .idCmp => .idCmp (headerA h) (headerB h)
  | .idRaw => .idRaw (headerA h)
  | .dataNew => .dataNew (headerA h) (immLow h) w1 w2
  | .dataEmpty => .dataEmpty (headerA h)
  | .dataLen => .dataLen (headerA h)
  | .dataIsEmpty => .dataIsEmpty (headerA h)
  | .dataView => .dataView (headerA h)
  | .dataRdb => .dataRdb (headerA h) (immIdx h)
  | .dataWrb => .dataWrb (headerA h) (immIdx h) (immLow h)
  | .dataEq => .dataEq (headerA h) (headerB h)
  | .dataFrom0 => .dataFrom0 (headerA h)
  | .dataFrom1 => .dataFrom1 (headerA h) w1
  | .dataFrom2 => .dataFrom2 (headerA h) w1
  | .dataFrom3 => .dataFrom3 (headerA h) w1
  | .dataFrom4 => .dataFrom4 (headerA h) w1
  | .dataFrom5 => .dataFrom5 (headerA h) w1 w2
  | .dataFrom6 => .dataFrom6 (headerA h) w1 w2
  | .dataFrom7 => .dataFrom7 (headerA h) w1 w2
  | .dataFrom8 => .dataFrom8 (headerA h) w1 w2
  | .frmNewd => .frmNewd (headerA h) (headerB h) w1
  | .frmNewr => .frmNewr (headerA h) (immLow h) w1
  | .frmIsExt => .frmIsExt (headerA h)
  | .frmIsStd => .frmIsStd (headerA h)
  | .frmIsRem => .frmIsRem (headerA h)
  | .frmIsData => .frmIsData (headerA h)
  | .frmId => .frmId (headerA h)
  | .frmDlc => .frmDlc (headerA h)
  | .frmData => .frmData (headerA h) (headerB h)
  | .frmPrio => .frmPrio (headerA h) (headerB h)
  | .priCmp => .priCmp (headerA h) (headerB h)
  | .arbSel => .arbSel (immLow h)

/-- What the block reads from the words presented to it. The remaining words are those after the packet. -/
inductive Decoded where
  /-- A legal packet: its command and the words after it. -/
  | command (i : Instr) (rest : List Word)
  /-- An unassigned opcode, or a reserved header bit set: IllegalCommand, the packet's words consumed (R79, R80). -/
  | illegal (rest : List Word)
  /-- A header whose operand words are missing: a truncated packet (20_memory.md R54). -/
  | truncated
  /-- No word at all: no packet is presented. -/
  | nothing
deriving DecidableEq, Repr

/-- The decode procedure of 30_encoding.md R82, with the packet framing of R70 and R72: an unassigned opcode is a packet of its
header alone, and a reserved bit leaves the packet's length as it is. -/
def decode : List Word → Decoded
  | [] => .nothing
  | h :: ws =>
    match rowOf (headerOp h) with
    | none => .illegal ws
    | some m =>
      if ws.length < operandCount m then .truncated
      else if headerLegal m h then .command (build h (ws.getD 0 0) (ws.getD 1 0) m) (ws.drop (operandCount m))
      else .illegal (ws.drop (operandCount m))

/-- A header word from its fields: `OP || A || B || IMM` (30_encoding.md R71). -/
def mkHeader (op : BitVec 8) (a b : RegIdx) (imm : BitVec 18) : Word := op ++ a ++ b ++ imm

/-- The words of a command (30_encoding.md R71, R77, R81): reserved bits are 0. -/
def encode : Instr → List Word
  | .idStd a w1 => [mkHeader 0x10 a 0 0, w1]
  | .idExt a w1 => [mkHeader 0x11 a 0 0, w1]
  | .idRtr a b f => [mkHeader 0x12 a b (f.zeroExtend 18)]
  | .idIsExt a => [mkHeader 0x13 a 0 0]
  | .idIsStd a => [mkHeader 0x14 a 0 0]
  | .idGetRtr a => [mkHeader 0x15 a 0 0]
  | .idToId a => [mkHeader 0x16 a 0 0]
  | .idCmp a b => [mkHeader 0x17 a b 0]
  | .idRaw a => [mkHeader 0x18 a 0 0]
  | .dataNew a len w1 w2 => [mkHeader 0x20 a 0 (len.zeroExtend 18), w1, w2]
  | .dataEmpty a => [mkHeader 0x21 a 0 0]
  | .dataLen a => [mkHeader 0x22 a 0 0]
  | .dataIsEmpty a => [mkHeader 0x23 a 0 0]
  | .dataView a => [mkHeader 0x24 a 0 0]
  | .dataRdb a idx => [mkHeader 0x25 a 0 (idx.zeroExtend 18 <<< 8)]
  | .dataWrb a idx byte => [mkHeader 0x26 a 0 (idx.zeroExtend 18 <<< 8 ||| byte.zeroExtend 18)]
  | .dataEq a b => [mkHeader 0x27 a b 0]
  | .dataFrom0 a => [mkHeader 0x30 a 0 0]
  | .dataFrom1 a w1 => [mkHeader 0x31 a 0 0, w1]
  | .dataFrom2 a w1 => [mkHeader 0x32 a 0 0, w1]
  | .dataFrom3 a w1 => [mkHeader 0x33 a 0 0, w1]
  | .dataFrom4 a w1 => [mkHeader 0x34 a 0 0, w1]
  | .dataFrom5 a w1 w2 => [mkHeader 0x35 a 0 0, w1, w2]
  | .dataFrom6 a w1 w2 => [mkHeader 0x36 a 0 0, w1, w2]
  | .dataFrom7 a w1 w2 => [mkHeader 0x37 a 0 0, w1, w2]
  | .dataFrom8 a w1 w2 => [mkHeader 0x38 a 0 0, w1, w2]
  | .frmNewd a b w1 => [mkHeader 0x40 a b 0, w1]
  | .frmNewr a dlc w1 => [mkHeader 0x41 a 0 (dlc.zeroExtend 18), w1]
  | .frmIsExt a => [mkHeader 0x42 a 0 0]
  | .frmIsStd a => [mkHeader 0x43 a 0 0]
  | .frmIsRem a => [mkHeader 0x44 a 0 0]
  | .frmIsData a => [mkHeader 0x45 a 0 0]
  | .frmId a => [mkHeader 0x46 a 0 0]
  | .frmDlc a => [mkHeader 0x47 a 0 0]
  | .frmData a b => [mkHeader 0x48 a b 0]
  | .frmPrio a b => [mkHeader 0x49 a b 0]
  | .priCmp a b => [mkHeader 0x50 a b 0]
  | .arbSel mask => [mkHeader 0x51 0 0 (mask.zeroExtend 18)]

/-- The packet whose bits are the low `nbits` bits of `w`, bit 0 the least significant bit of the header, with operand words
above `nbits` zero: the header and exactly the operand words its opcode fixes (30_encoding.md R70, R72). -/
def tablePacket (nbits w : Nat) : List Word :=
  let bits := w % 2 ^ nbits
  let h := BitVec.ofNat 32 bits
  h :: [BitVec.ofNat 32 (bits >>> 32), BitVec.ofNat 32 (bits >>> 64)].take (packetOperands h)

/-- The command the decoder reads from an opcode-table word; `none` where the decoder refuses it. -/
def decodeTableWord (nbits w : Nat) : Option Instr :=
  match decode (tablePacket nbits w) with
  | .command i _ => some i
  | _ => none

end Sys2Proof
end

