-- ==== Sys2Proof/Config.lean ====
section
/-!
DEFINITION. What an implementation fixes: the sizes of the four register files, the only open parameters of the spec
(00_scope.md R7; 93_implementation_defined.md I8). The spec leaves no result open, so there is no free value here.
-/

namespace Sys2Proof

/-- The number of registers of each file: NIR, NDR, NFR and NPR of 00_scope.md R7. -/
structure Sizes where
  nir : Nat
  ndr : Nat
  nfr : Nat
  npr : Nat
deriving DecidableEq, Repr

/-- Each size is an integer in 1..8 (00_scope.md R7). -/
def Sizes.legal (z : Sizes) : Bool :=
  [z.nir, z.ndr, z.nfr, z.npr].all fun n => decide (1 ≤ n ∧ n ≤ 8)

/-- The reference value of R7: eight registers in every file. `State.reset` has these sizes (log 2); the step works
for every choice of sizes, since a state carries its own. -/
def Config.referenceSizes : Sizes := ⟨8, 8, 8, 8⟩

end Sys2Proof
end

