-- ==== Sys2Proof/Machine/State.lean ====
section
/-!
DEFINITION. The state of the block and its value types (10_state.md), the reasons a step can stop, and the state after reset
(R44). There is no memory, no program counter and no mode (R39, R40, R50, R254): the four register files, STATUS, RES0-RES2 and
the host's side of the ports are everything the spec gives the machine.
-/

namespace Sys2Proof.Machine

/-- An IdReg (10_state.md R21, R22): EID in bits 31:3, IDE in bit 2 (1 = standard), RTR in bit 1, bit 0 always 0. -/
abbrev IdReg := Word

/-- A FramePriority is a copy of one IdReg (10_state.md R30). -/
abbrev FramePriority := IdReg

/-- The logical Id (10_state.md R31): an operand and a result, never a register value. -/
inductive Id where
  | standard (v : BitVec 11)
  | extended (v : BitVec 29)
deriving DecidableEq, Repr

/-- The bounded payload (10_state.md R27): `len` takes the values 0 to 8 of the spec's 4-bit field, `buf` holds lanes 0 to 7. -/
structure Data where
  len : Fin 9
  buf : Vector Byte 8
deriving DecidableEq, Repr

/-- A frame (10_state.md R29). -/
structure Frame where
  id : IdReg
  data : Data
deriving DecidableEq, Repr

/-- The error codes of 60_exceptions.md R240. The first three are rejections, the other four faults (R241). -/
inductive ErrorCode where
  | payloadTooLarge
  | invalidDlc
  | invalidIdentifier
  | illegalCommand
  | indexRange
  | unwritten
  | viewBounds
deriving DecidableEq, Repr

/-- The output ports, which the host may read between commands (10_state.md R42). -/
inductive OutPort where
  | status
  | res0
  | res1
  | res2
deriving DecidableEq, Repr

/-- What the host does at the block's ports (10_state.md R42, R43). -/
inductive HostAction where
  /-- Words presented on CMD with RST low: whole packets, each presented after the one before it has completed (R273). -/
  | issue (words : List Word)
  /-- A read of an output register between commands (20_memory.md R56). -/
  | read (port : OutPort)
  /-- RST asserted and released while these words are presented on CMD: they are not executed (R270). -/
  | reset (words : List Word)
deriving DecidableEq, Repr

/-- The whole state. A register is `none` while nothing has written it: the spec's own value `⊥` (10_state.md R36), which a
command reports as Unwritten. The sizes NIR, NDR, NFR and NPR are the lengths of the four lists. -/
structure State where
  /-- `IR[0..NIR-1]` (10_state.md R32). -/
  ir : List (Option IdReg)
  /-- `DR[0..NDR-1]` (10_state.md R33). -/
  dr : List (Option Data)
  /-- `FR[0..NFR-1]` (10_state.md R34). -/
  fr : List (Option Frame)
  /-- `PR[0..NPR-1]` (10_state.md R35). -/
  pr : List (Option FramePriority)
  /-- STATUS: CODE in bits 3:0, FAULT in bit 8 (10_state.md R37). -/
  status : Word
  /-- RES0 (10_state.md R38). -/
  res0 : Word
  /-- RES1 (10_state.md R38). -/
  res1 : Word
  /-- RES2 (10_state.md R38). -/
  res2 : Word
  /-- The host's actions still to come, the next one first (10_state.md R42, R43). -/
  host : List HostAction
deriving DecidableEq, Repr

/-- The sizes of the register files (00_scope.md R7). -/
def State.sizes (s : State) : Sizes :=
  ⟨s.ir.length, s.dr.length, s.fr.length, s.pr.length⟩

/-- The reset state for given file sizes (10_state.md R44): every register unwritten, STATUS and RES0-RES2 zero. -/
def State.resetOf (z : Sizes) (host : List HostAction) : State where
  ir := List.replicate z.nir none
  dr := List.replicate z.ndr none
  fr := List.replicate z.nfr none
  pr := List.replicate z.npr none
  status := 0
  res0 := 0
  res1 := 0
  res2 := 0
  host := host

/-- The machine right after reset with the reference sizes of R7, waiting for the first packet (70_reset_and_hazards.md R271). -/
def State.reset : State := State.resetOf Config.referenceSizes []

/-- The model faults of 60_exceptions.md R241, one for each fault code. `step` NEVER raises one: the block reports the fault in
STATUS and goes on (R250, R252). They are raised by `claimStep` (Safety.lean) alone, the reading R241 asks of a claim, in which
a run ends where a command ends with a fault code; that is safe, since it makes fewer claims provable. -/
inductive Fault where
  /-- Code 8, raised by `claimStep` on an illegal header (R245). Safe. -/
  | illegalCommand
  /-- Code 9, raised by `claimStep` on a register index past its file (R246). Safe. -/
  | indexRange
  /-- Code 10, raised by `claimStep` on a read of an unwritten register (R247). Safe. -/
  | unwritten
  /-- Code 11, raised by `claimStep` on a view access at or past `len` (R248). Safe. -/
  | viewBounds
deriving DecidableEq, Repr

/-- Why the model has no move. -/
inductive Refusal where
  /-- Raised by an arm of `exec` for a command that has no meaning yet; no arm of this model does. Safe. -/
  | notModelled (mnemonic : String)
  /-- Raised by `step` when the words presented end before the packet does: a truncated packet has no move in the model
  (20_memory.md R54; 93_implementation_defined.md I6). Safe. -/
  | truncatedPacket
deriving DecidableEq, Repr

end Sys2Proof.Machine
end

