-- ==== Sys2Proof/Machine/Operands.lean ====
section
/-!
DEFINITION. Every operand form of 30_encoding.md section 2: the logical-Id word IDW (R73), the raw identifier words (R74, R75), payload
lanes in words (R76; 20_memory.md R52), the bounded length (R77, R143, R182) and the MASK of `ARB.SEL` (R77).
-/

namespace Sys2Proof.Machine

/-- `decodeIdW` of 30_encoding.md R73. -/
def decodeIdW (w : Word) : Except ErrorCode Id :=
  if w.getLsbD 31 = false then
    if w.extractLsb' 11 20 = 0 then .ok (.standard (w.extractLsb' 0 11)) else .error .invalidIdentifier
  else
    if w.extractLsb' 29 2 = 0 then .ok (.extended (w.extractLsb' 0 29)) else .error .invalidIdentifier

/-- `encodeIdW` of 30_encoding.md R73. -/
def encodeIdW : Id → Word
  | .standard v => v.zeroExtend 32
  | .extended v => 0x80000000 ||| v.zeroExtend 32

/-- `decodeStdW` of 30_encoding.md R74. -/
def decodeStdW (w : Word) : Except ErrorCode (BitVec 11) :=
  if w.extractLsb' 11 21 = 0 then .ok (w.extractLsb' 0 11) else .error .invalidIdentifier

/-- `decodeExtW` of 30_encoding.md R75. -/
def decodeExtW (w : Word) : Except ErrorCode (BitVec 29) :=
  if w.extractLsb' 29 3 = 0 then .ok (w.extractLsb' 0 29) else .error .invalidIdentifier

/-- Lane `i` of one word, `w[8*(i mod 4)+7 : 8*(i mod 4)]` (20_memory.md R52). -/
def laneOf (w : Word) (i : Nat) : Byte := w.extractLsb' (8 * (i % 4)) 8

/-- The payload lanes 0 to 7 of the operand words W1 and W2 (30_encoding.md R76). -/
def lanes (w1 w2 : Word) : Vector Byte 8 :=
  Vector.ofFn fun i => if i.val < 4 then laneOf w1 i.val else laneOf w2 i.val

/-- Four lanes as one word, the first in the least significant byte (20_memory.md R52). -/
def packWord (b0 b1 b2 b3 : Byte) : Word := b3 ++ b2 ++ b1 ++ b0

/-- An 8-bit length as a bounded one; `none` above 8 (41_data.md R143). -/
def boundedLength (n : BitVec 8) : Option (Fin 9) :=
  if h : n.toNat < 9 then some ⟨n.toNat, h⟩ else none

/-- The registers an `ARB.SEL` MASK selects, ascending (30_encoding.md R77, 43_priority.md R222). -/
def maskIndices (mask : BitVec 8) : List Nat :=
  [0, 1, 2, 3, 4, 5, 6, 7].filter fun i => mask.getLsbD i

end Sys2Proof.Machine
end

