-- ==== Sys2Proof/Machine/Flags.lean ====
section
/-!
DEFINITION. The status word and the encodings of results: STATUS after a command that completes and after an error
(10_state.md R37, 60_exceptions.md R240, R250, R251), and Booleans, orderings and lengths as result words (10_state.md R38).
-/

namespace Sys2Proof.Machine

/-- The number of an error code (60_exceptions.md R240). -/
def ErrorCode.number : ErrorCode → BitVec 4
  | .payloadTooLarge => 1
  | .invalidDlc => 2
  | .invalidIdentifier => 3
  | .illegalCommand => 8
  | .indexRange => 9
  | .unwritten => 10
  | .viewBounds => 11

/-- The fault codes 8 to 11; the others are rejections (60_exceptions.md R241). -/
def ErrorCode.isFault : ErrorCode → Bool
  | .payloadTooLarge => false
  | .invalidDlc => false
  | .invalidIdentifier => false
  | .illegalCommand => true
  | .indexRange => true
  | .unwritten => true
  | .viewBounds => true

/-- `STATUS.CODE` (10_state.md R37). -/
def statusCode (st : Word) : BitVec 4 := st.extractLsb' 0 4

/-- `STATUS.FAULT` (10_state.md R37). -/
def statusFault (st : Word) : Bool := st.getLsbD 8

/-- The STATUS word with the given CODE and FAULT; its reserved bits read 0 (10_state.md R37). -/
def statusWord (code : BitVec 4) (fault : Bool) : Word :=
  code.zeroExtend 32 ||| (BitVec.ofBool fault).zeroExtend 32 <<< 8

/-- STATUS after a command that completes: CODE is OK and FAULT stays (60_exceptions.md R240, R251). -/
def statusAfterOk (st : Word) : Word := statusWord 0 (statusFault st)

/-- STATUS after an error: its code, and FAULT set by a fault code and kept by a rejection (60_exceptions.md R250, R251). -/
def statusAfterError (e : ErrorCode) (st : Word) : Word :=
  statusWord e.number (statusFault st || e.isFault)

/-- A Boolean result: 0 or 1 (10_state.md R38). -/
def boolWord (b : Bool) : Word := if b then 1 else 0

/-- An ordering result: Equal 0, Less 1, Greater 2 (10_state.md R38; `ordcode` of 40_idreg.md R117). -/
def orderWord : Ordering → Word
  | .eq => 0
  | .lt => 1
  | .gt => 2

/-- A length result: 0 to 8 (10_state.md R38). -/
def lengthWord (n : Fin 9) : Word := BitVec.ofNat 32 n.val

/-- A byte result, zero-extended (10_state.md R38). -/
def byteWord (b : Byte) : Word := b.zeroExtend 32

end Sys2Proof.Machine
end

