-- ==== Sys2Proof/Machine/Ops.lean ====
section
/-!
DEFINITION. The named operations over the registers and the ports: the index check and the register read of 40_idreg.md R119, register
and result writes, how a command ends (60_exceptions.md R240, R250: ending with an error is this block's taking of an
exception; there is no return from one, R252), reset (70_reset_and_hazards.md R270) and host reads (20_memory.md R56).
-/

namespace Sys2Proof.Machine

/-- `checkIndex(F, i)`: IndexRange when the file has no register `i` (40_idreg.md R119). -/
def checkIndex {α : Type} (file : List (Option α)) (i : Nat) : Except ErrorCode Unit :=
  if i < file.length then .ok () else .error .indexRange

/-- A read of register `i`: Unwritten when it holds `⊥` (40_idreg.md R119, 60_exceptions.md R247). -/
def readReg {α : Type} (file : List (Option α)) (i : Nat) : Except ErrorCode α :=
  match file[i]? with
  | some (some v) => .ok v
  | _ => .error .unwritten

/-- A write of a whole value to register `i`; a file has no other registers than its own (00_scope.md R9). -/
def writeReg {α : Type} (file : List (Option α)) (i : Nat) (v : α) : List (Option α) :=
  file.set i (some v)

/-- `IR[i] <- v` (00_scope.md R9). -/
def State.writeIr (s : State) (i : RegIdx) (v : IdReg) : State :=
  { s with ir := writeReg s.ir i.toNat v }

/-- `DR[i] <- v` (00_scope.md R9). -/
def State.writeDr (s : State) (i : RegIdx) (v : Data) : State :=
  { s with dr := writeReg s.dr i.toNat v }

/-- `FR[i] <- v` (00_scope.md R9). -/
def State.writeFr (s : State) (i : RegIdx) (v : Frame) : State :=
  { s with fr := writeReg s.fr i.toNat v }

/-- `PR[i] <- v` (00_scope.md R9). -/
def State.writePr (s : State) (i : RegIdx) (v : FramePriority) : State :=
  { s with pr := writeReg s.pr i.toNat v }

/-- `RES0 <- w` (10_state.md R38). -/
def State.setRes0 (s : State) (w : Word) : State := { s with res0 := w }

/-- `RES0 <- w0; RES1 <- w1; RES2 <- w2` (41_data.md R157). -/
def State.setRes (s : State) (w0 w1 w2 : Word) : State := { s with res0 := w0, res1 := w1, res2 := w2 }

/-- `STATUS.CODE <- OK`, FAULT kept (60_exceptions.md R240, R251). -/
def State.complete (s : State) : State := { s with status := statusAfterOk s.status }

/-- `raise E`: the command ends with an error, and only STATUS changes (60_exceptions.md R250). -/
def State.raise (s : State) (e : ErrorCode) : State := { s with status := statusAfterError e s.status }

/-- The end of a command that started in `s`: with the state it computed, or with an error and nothing but STATUS changed
(20_memory.md R55, 60_exceptions.md R250). -/
def conclude (s : State) : Except ErrorCode State → Host.Outcome State Fault Refusal
  | .ok t => .next t.complete
  | .error e => .next (s.raise e)

/-- The common shape of the commands that read one register of a file and write RES0 (40_idreg.md R113-R116, R118; 41_data.md
R155, R156; 42_frame.md R183-R188). -/
def readToRes0 {α : Type} (file : List (Option α)) (a : RegIdx) (f : α → Word) (s : State) :
    Host.Outcome State Fault Refusal :=
  conclude s do
    checkIndex file a.toNat
    let v ← readReg file a.toNat
    return s.setRes0 (f v)

/-- The common shape of the commands that read two registers of one file, A before B, and write RES0 (40_idreg.md R117;
41_data.md R160; 43_priority.md R221). -/
def readTwoToRes0 {α : Type} (file : List (Option α)) (a b : RegIdx) (f : α → α → Word) (s : State) :
    Host.Outcome State Fault Refusal :=
  conclude s do
    checkIndex file a.toNat
    checkIndex file b.toNat
    let v1 ← readReg file a.toNat
    let v2 ← readReg file b.toNat
    return s.setRes0 (f v1 v2)

/-- A reset: the reset state, with the file sizes and the host's further actions as they are (70_reset_and_hazards.md R270). -/
def State.takeReset (s : State) : State := State.resetOf s.sizes s.host

/-- The words left on CMD after a packet are the next packets the host presents; with no word left the host's next action
comes (70_reset_and_hazards.md R273). -/
def presentRest (ws : List Word) (rest : List HostAction) : List HostAction :=
  match ws with
  | [] => rest
  | w :: ws => .issue (w :: ws) :: rest

/-- What the host gets from a read of an output register (10_state.md R42; 70_reset_and_hazards.md R274). -/
def State.hostRead (s : State) : OutPort → Word
  | .status => s.status
  | .res0 => s.res0
  | .res1 => s.res1
  | .res2 => s.res2

end Sys2Proof.Machine
end

