-- ==== Sys2Proof/Machine/IdReg.lean ====
section
/-!
DEFINITION. The IdReg family (40_idreg.md): the packers, the unpacker and the comparison unit, and one meaning per command.
-/

namespace Sys2Proof.Machine

/-- The standard packer (40_idreg.md R100): the value left-aligned in EID, IDE = 1, RTR = 0. -/
def packStd (v : BitVec 11) : IdReg :=
  ((v.zeroExtend 29 <<< 18).zeroExtend 32 <<< 3) ||| (1 <<< 2)

/-- The extended packer (40_idreg.md R101): the value in all of EID, IDE = 0, RTR = 0. -/
def packExt (v : BitVec 29) : IdReg := v.zeroExtend 32 <<< 3

/-- The RTR replacer `set_rtr` (40_idreg.md R102). -/
def setRtr (r : IdReg) (f : BitVec 1) : IdReg := (r &&& 0xFFFFFFFD) ||| (f.zeroExtend 32 <<< 1)

/-- IDE is 1: the standard format (40_idreg.md R103). -/
def isStandard (r : IdReg) : Bool := r.getLsbD 2

/-- IDE is 0: the extended format (40_idreg.md R103). -/
def isExtended (r : IdReg) : Bool := !r.getLsbD 2

/-- The RTR bit (40_idreg.md R103). -/
def rtr (r : IdReg) : BitVec 1 := r.extractLsb' 1 1

/-- The unpacker `to_id` (40_idreg.md R104): IDE selects between bits 31:21 and bits 31:3. -/
def toId (r : IdReg) : Id :=
  if isStandard r then .standard (r.extractLsb' 21 11) else .extended (r.extractLsb' 3 29)

/-- The comparison unit `cmp` (40_idreg.md R105): the unsigned order of the whole register; Less has the higher bus priority. -/
def cmpIdReg (r1 r2 : IdReg) : Ordering :=
  if r1 < r2 then .lt else if r1 = r2 then .eq else .gt

/-- The Id-to-IdReg converter `idreg_of` (40_idreg.md R109). -/
def idRegOf : Id → IdReg
  | .standard v => packStd v
  | .extended v => packExt v

/-- `ID.STD` (40_idreg.md R110). -/
def execIdStd (a : RegIdx) (w1 : Word) (s : State) : Host.Outcome State Fault Refusal :=
  conclude s do
    checkIndex s.ir a.toNat
    let v ← decodeStdW w1
    return s.writeIr a (packStd v)

/-- `ID.EXT` (40_idreg.md R111). -/
def execIdExt (a : RegIdx) (w1 : Word) (s : State) : Host.Outcome State Fault Refusal :=
  conclude s do
    checkIndex s.ir a.toNat
    let v ← decodeExtW w1
    return s.writeIr a (packExt v)

/-- `ID.RTR` (40_idreg.md R112). -/
def execIdRtr (a b : RegIdx) (f : BitVec 1) (s : State) : Host.Outcome State Fault Refusal :=
  conclude s do
    checkIndex s.ir a.toNat
    checkIndex s.ir b.toNat
    let r ← readReg s.ir b.toNat
    return s.writeIr a (setRtr r f)

/-- `ID.ISEXT` (40_idreg.md R113). -/
def execIdIsExt (a : RegIdx) (s : State) : Host.Outcome State Fault Refusal :=
  readToRes0 s.ir a (fun r => boolWord (isExtended r)) s

/-- `ID.ISSTD` (40_idreg.md R114). -/
def execIdIsStd (a : RegIdx) (s : State) : Host.Outcome State Fault Refusal :=
  readToRes0 s.ir a (fun r => boolWord (isStandard r)) s

/-- `ID.GETRTR` (40_idreg.md R115). -/
def execIdGetRtr (a : RegIdx) (s : State) : Host.Outcome State Fault Refusal :=
  readToRes0 s.ir a (fun r => (rtr r).zeroExtend 32) s

/-- `ID.TOID` (40_idreg.md R116). -/
def execIdToId (a : RegIdx) (s : State) : Host.Outcome State Fault Refusal :=
  readToRes0 s.ir a (fun r => encodeIdW (toId r)) s

/-- `ID.CMP` (40_idreg.md R117). -/
def execIdCmp (a b : RegIdx) (s : State) : Host.Outcome State Fault Refusal :=
  readTwoToRes0 s.ir a b (fun r1 r2 => orderWord (cmpIdReg r1 r2)) s

/-- `ID.RAW` (40_idreg.md R118). -/
def execIdRaw (a : RegIdx) (s : State) : Host.Outcome State Fault Refusal :=
  readToRes0 s.ir a (fun r => r) s

end Sys2Proof.Machine
end

