-- ==== Sys2Proof/Machine/Data.lean ====
section
/-!
DEFINITION. The Data family (41_data.md): the builder, the bounded view and payload equality, and one meaning per command. Every
accessor takes its bound from `len`.
-/

namespace Sys2Proof.Machine

/-- The Data builder `mkData` (41_data.md R140): lanes at or past `n` are stored as zero. -/
def mkData (n : Fin 9) (l : Vector Byte 8) : Data :=
  ⟨n, Vector.ofFn fun i => if i.val < n.val then l[i] else 0⟩

/-- The empty payload, `mkData(0, 0^8)` (41_data.md R144). -/
def emptyData : Data := mkData 0 (Vector.replicate 8 0)

/-- Lane `i` of the bounded view: `0x00` at or past `len` (41_data.md R141). -/
def viewLane (d : Data) (i : Fin 8) : Byte := if i.val < d.len.val then d.buf[i] else 0

/-- The first word of `viewWords`: lanes 0 to 3 (41_data.md R141). -/
def viewWordLow (d : Data) : Word := packWord (viewLane d 0) (viewLane d 1) (viewLane d 2) (viewLane d 3)

/-- The second word of `viewWords`: lanes 4 to 7 (41_data.md R141). -/
def viewWordHigh (d : Data) : Word := packWord (viewLane d 4) (viewLane d 5) (viewLane d 6) (viewLane d 7)

/-- Payload equality `eqData` (41_data.md R142): the bounded views hold the same bytes in the same order. -/
def eqData (d1 d2 : Data) : Bool :=
  decide (d1.len = d2.len ∧ ∀ i : Fin 8, i.val < d1.len.val → d1.buf[i] = d2.buf[i])

/-- A lane index within the view; ViewBounds at or past `len` (41_data.md R158, R159). -/
def checkView (d : Data) (idx : BitVec 3) : Except ErrorCode Unit :=
  if idx.toNat < d.len.val then .ok () else .error .viewBounds

/-- The lane a 3-bit index selects (30_encoding.md R77). -/
def laneIndex (idx : BitVec 3) : Fin 8 := idx.toFin

/-- The common rule of `DATA.FROMk` (41_data.md R145): an absent operand word reads as 0. -/
def dataFrom (k : Fin 9) (a : RegIdx) (w1 w2 : Word) (s : State) : Host.Outcome State Fault Refusal :=
  conclude s do
    checkIndex s.dr a.toNat
    return s.writeDr a (mkData k (lanes w1 w2))

/-- `DATA.NEW` (41_data.md R143). -/
def execDataNew (a : RegIdx) (len : BitVec 8) (w1 w2 : Word) (s : State) : Host.Outcome State Fault Refusal :=
  conclude s do
    checkIndex s.dr a.toNat
    match boundedLength len with
    | some n => return s.writeDr a (mkData n (lanes w1 w2))
    | none => throw .payloadTooLarge

/-- `DATA.EMPTY` (41_data.md R144). -/
def execDataEmpty (a : RegIdx) (s : State) : Host.Outcome State Fault Refusal :=
  conclude s do
    checkIndex s.dr a.toNat
    return s.writeDr a emptyData

/-- `DATA.FROM0` (41_data.md R146). -/
def execDataFrom0 (a : RegIdx) (s : State) : Host.Outcome State Fault Refusal := dataFrom 0 a 0 0 s

/-- `DATA.FROM1` (41_data.md R147). -/
def execDataFrom1 (a : RegIdx) (w1 : Word) (s : State) : Host.Outcome State Fault Refusal := dataFrom 1 a w1 0 s

/-- `DATA.FROM2` (41_data.md R148). -/
def execDataFrom2 (a : RegIdx) (w1 : Word) (s : State) : Host.Outcome State Fault Refusal := dataFrom 2 a w1 0 s

/-- `DATA.FROM3` (41_data.md R149). -/
def execDataFrom3 (a : RegIdx) (w1 : Word) (s : State) : Host.Outcome State Fault Refusal := dataFrom 3 a w1 0 s

/-- `DATA.FROM4` (41_data.md R150). -/
def execDataFrom4 (a : RegIdx) (w1 : Word) (s : State) : Host.Outcome State Fault Refusal := dataFrom 4 a w1 0 s

/-- `DATA.FROM5` (41_data.md R151). -/
def execDataFrom5 (a : RegIdx) (w1 w2 : Word) (s : State) : Host.Outcome State Fault Refusal := dataFrom 5 a w1 w2 s

/-- `DATA.FROM6` (41_data.md R152). -/
def execDataFrom6 (a : RegIdx) (w1 w2 : Word) (s : State) : Host.Outcome State Fault Refusal := dataFrom 6 a w1 w2 s

/-- `DATA.FROM7` (41_data.md R153). -/
def execDataFrom7 (a : RegIdx) (w1 w2 : Word) (s : State) : Host.Outcome State Fault Refusal := dataFrom 7 a w1 w2 s

/-- `DATA.FROM8` (41_data.md R154). -/
def execDataFrom8 (a : RegIdx) (w1 w2 : Word) (s : State) : Host.Outcome State Fault Refusal := dataFrom 8 a w1 w2 s

/-- `DATA.LEN` (41_data.md R155). -/
def execDataLen (a : RegIdx) (s : State) : Host.Outcome State Fault Refusal :=
  readToRes0 s.dr a (fun d => lengthWord d.len) s

/-- `DATA.ISEMPTY` (41_data.md R156). -/
def execDataIsEmpty (a : RegIdx) (s : State) : Host.Outcome State Fault Refusal :=
  readToRes0 s.dr a (fun d => boolWord (d.len == 0)) s

/-- `DATA.VIEW` (41_data.md R157). -/
def execDataView (a : RegIdx) (s : State) : Host.Outcome State Fault Refusal :=
  conclude s do
    checkIndex s.dr a.toNat
    let d ← readReg s.dr a.toNat
    return s.setRes (lengthWord d.len) (viewWordLow d) (viewWordHigh d)

/-- `DATA.RDB` (41_data.md R158). -/
def execDataRdb (a : RegIdx) (idx : BitVec 3) (s : State) : Host.Outcome State Fault Refusal :=
  conclude s do
    checkIndex s.dr a.toNat
    let d ← readReg s.dr a.toNat
    checkView d idx
    return s.setRes0 (byteWord d.buf[laneIndex idx])

/-- `DATA.WRB` (41_data.md R159): one lane changes, `len` does not. -/
def execDataWrb (a : RegIdx) (idx : BitVec 3) (byte : Byte) (s : State) : Host.Outcome State Fault Refusal :=
  conclude s do
    checkIndex s.dr a.toNat
    let d ← readReg s.dr a.toNat
    checkView d idx
    return s.writeDr a { d with buf := d.buf.set (laneIndex idx) byte }

/-- `DATA.EQ` (41_data.md R160). -/
def execDataEq (a b : RegIdx) (s : State) : Host.Outcome State Fault Refusal :=
  readTwoToRes0 s.dr a b (fun d1 d2 => boolWord (eqData d1 d2)) s

end Sys2Proof.Machine
end

