-- ==== Sys2Proof/Machine/Frame.lean ====
section
/-!
DEFINITION. The Frame family (42_frame.md): the classification reads, the frame formatter and one meaning per command.
-/

namespace Sys2Proof.Machine

/-- `is_remote_frame` (42_frame.md R180): RTR is 1. -/
def isRemoteFrame (fr : Frame) : Bool := rtr fr.id == 1

/-- `is_data_frame` (42_frame.md R180): RTR is 0. -/
def isDataFrame (fr : Frame) : Bool := rtr fr.id == 0

/-- The Data of a remote frame (42_frame.md R182): the empty Data with its length overridden, no byte populated. -/
def remoteData (dlc : Fin 9) : Data := { emptyData with len := dlc }

/-- The DLC of a remote frame: 0 to 7, InvalidDlc from 8 on (42_frame.md R182). -/
def remoteDlc (dlc : BitVec 8) : Except ErrorCode (Fin 9) :=
  if h : dlc.toNat < 8 then .ok ⟨dlc.toNat, by omega⟩ else .error .invalidDlc

/-- `FRM.NEWD` (42_frame.md R181): a data frame, the payload copied. -/
def execFrmNewd (a b : RegIdx) (w1 : Word) (s : State) : Host.Outcome State Fault Refusal :=
  conclude s do
    checkIndex s.fr a.toNat
    checkIndex s.dr b.toNat
    let id ← decodeIdW w1
    let d ← readReg s.dr b.toNat
    return s.writeFr a ⟨idRegOf id, d⟩

/-- `FRM.NEWR` (42_frame.md R182): a remote frame. -/
def execFrmNewr (a : RegIdx) (dlc : BitVec 8) (w1 : Word) (s : State) : Host.Outcome State Fault Refusal :=
  conclude s do
    checkIndex s.fr a.toNat
    let id ← decodeIdW w1
    let n ← remoteDlc dlc
    return s.writeFr a ⟨setRtr (idRegOf id) 1, remoteData n⟩

/-- `FRM.ISEXT` (42_frame.md R183). -/
def execFrmIsExt (a : RegIdx) (s : State) : Host.Outcome State Fault Refusal :=
  readToRes0 s.fr a (fun fr => boolWord (isExtended fr.id)) s

/-- `FRM.ISSTD` (42_frame.md R184). -/
def execFrmIsStd (a : RegIdx) (s : State) : Host.Outcome State Fault Refusal :=
  readToRes0 s.fr a (fun fr => boolWord (isStandard fr.id)) s

/-- `FRM.ISREM` (42_frame.md R185). -/
def execFrmIsRem (a : RegIdx) (s : State) : Host.Outcome State Fault Refusal :=
  readToRes0 s.fr a (fun fr => boolWord (isRemoteFrame fr)) s

/-- `FRM.ISDATA` (42_frame.md R186). -/
def execFrmIsData (a : RegIdx) (s : State) : Host.Outcome State Fault Refusal :=
  readToRes0 s.fr a (fun fr => boolWord (isDataFrame fr)) s

/-- `FRM.ID` (42_frame.md R187). -/
def execFrmId (a : RegIdx) (s : State) : Host.Outcome State Fault Refusal :=
  readToRes0 s.fr a (fun fr => encodeIdW (toId fr.id)) s

/-- `FRM.DLC` (42_frame.md R188). -/
def execFrmDlc (a : RegIdx) (s : State) : Host.Outcome State Fault Refusal :=
  readToRes0 s.fr a (fun fr => lengthWord fr.data.len) s

/-- `FRM.DATA` (42_frame.md R189): a data frame's payload is copied and present; a remote frame's is absent and `DR[A]` stays. -/
def execFrmData (a b : RegIdx) (s : State) : Host.Outcome State Fault Refusal :=
  conclude s do
    checkIndex s.dr a.toNat
    checkIndex s.fr b.toNat
    let fr ← readReg s.fr b.toNat
    if isDataFrame fr then return (s.writeDr a fr.data).setRes0 (boolWord true)
    else return s.setRes0 (boolWord false)

/-- `FRM.PRIO` (42_frame.md R190): the key is a copy of the frame's IdReg. -/
def execFrmPrio (a b : RegIdx) (s : State) : Host.Outcome State Fault Refusal :=
  conclude s do
    checkIndex s.pr a.toNat
    checkIndex s.fr b.toNat
    let fr ← readReg s.fr b.toNat
    return s.writePr a fr.id

end Sys2Proof.Machine
end

