-- ==== Sys2Proof/Machine/Priority.lean ====
section
/-!
DEFINITION. The FramePriority family and the arbiter (43_priority.md). Both commands use the comparison unit alone (R220, R222).
-/

namespace Sys2Proof.Machine

/-- `prio_cmp` (43_priority.md R220): the IdReg order of the wrapped values. -/
def prioCmp (p1 p2 : FramePriority) : Ordering := cmpIdReg p1 p2

/-- IndexRange when a selected register does not exist (43_priority.md R222, first loop). -/
def checkIndices {α : Type} (file : List (Option α)) : List Nat → Except ErrorCode Unit
  | [] => .ok ()
  | i :: is => do
    checkIndex file i
    checkIndices file is

/-- The selected registers with their values, Unwritten when one holds `⊥` (43_priority.md R222, second loop). -/
def readRegs {α : Type} (file : List (Option α)) : List Nat → Except ErrorCode (List (Nat × α))
  | [] => .ok []
  | i :: is => do
    let v ← readReg file i
    let vs ← readRegs file is
    return (i, v) :: vs

/-- One round of the arbiter's loop: a candidate replaces the best so far only if its key is Less (43_priority.md R222). -/
def betterOf (best : Option (Nat × FramePriority)) (c : Nat × FramePriority) : Option (Nat × FramePriority) :=
  match best with
  | none => some c
  | some b => if prioCmp c.2 b.2 = .lt then some c else some b

/-- The arbiter's loop over the candidates in ascending index order (43_priority.md R222). -/
def arbitrate (candidates : List (Nat × FramePriority)) : Option (Nat × FramePriority) :=
  candidates.foldl betterOf none

/-- The arbiter's result word: VALID in bit 8 and the winner's index, or 0 (43_priority.md R222). -/
def arbiterWord : Option (Nat × FramePriority) → Word
  | none => 0
  | some (i, _) => 0x100 ||| BitVec.ofNat 32 i

/-- `PRI.CMP` (43_priority.md R221). -/
def execPriCmp (a b : RegIdx) (s : State) : Host.Outcome State Fault Refusal :=
  readTwoToRes0 s.pr a b (fun p1 p2 => orderWord (prioCmp p1 p2)) s

/-- `ARB.SEL` (43_priority.md R222). -/
def execArbSel (mask : BitVec 8) (s : State) : Host.Outcome State Fault Refusal :=
  conclude s do
    checkIndices s.pr (maskIndices mask)
    let candidates ← readRegs s.pr (maskIndices mask)
    return s.setRes0 (arbiterWord (arbitrate candidates))

end Sys2Proof.Machine
end

