-- ==== Sys2Proof/Machine/Dispatch.lean ====
section
/-!
DEFINITION. The dispatch of a command to its meaning, one arm per constructor of Instr (30_encoding.md R81).
-/

namespace Sys2Proof.Machine

def exec (i : Instr) (s : State) : Host.Outcome State Fault Refusal :=
  match i with
  | .idStd a w1 => Sys2Proof.Machine.execIdStd a w1 s
  | .idExt a w1 => Sys2Proof.Machine.execIdExt a w1 s
  | .idRtr a b f => Sys2Proof.Machine.execIdRtr a b f s
  | .idIsExt a => Sys2Proof.Machine.execIdIsExt a s
  | .idIsStd a => Sys2Proof.Machine.execIdIsStd a s
  | .idGetRtr a => Sys2Proof.Machine.execIdGetRtr a s
  | .idToId a => Sys2Proof.Machine.execIdToId a s
  | .idCmp a b => Sys2Proof.Machine.execIdCmp a b s
  | .idRaw a => Sys2Proof.Machine.execIdRaw a s
  | .dataNew a len w1 w2 => Sys2Proof.Machine.execDataNew a len w1 w2 s
  | .dataEmpty a => Sys2Proof.Machine.execDataEmpty a s
  | .dataLen a => Sys2Proof.Machine.execDataLen a s
  | .dataIsEmpty a => Sys2Proof.Machine.execDataIsEmpty a s
  | .dataView a => Sys2Proof.Machine.execDataView a s
  | .dataRdb a idx => Sys2Proof.Machine.execDataRdb a idx s
  | .dataWrb a idx byte => Sys2Proof.Machine.execDataWrb a idx byte s
  | .dataEq a b => Sys2Proof.Machine.execDataEq a b s
  | .dataFrom0 a => Sys2Proof.Machine.execDataFrom0 a s
  | .dataFrom1 a w1 => Sys2Proof.Machine.execDataFrom1 a w1 s
  | .dataFrom2 a w1 => Sys2Proof.Machine.execDataFrom2 a w1 s
  | .dataFrom3 a w1 => Sys2Proof.Machine.execDataFrom3 a w1 s
  | .dataFrom4 a w1 => Sys2Proof.Machine.execDataFrom4 a w1 s
  | .dataFrom5 a w1 w2 => Sys2Proof.Machine.execDataFrom5 a w1 w2 s
  | .dataFrom6 a w1 w2 => Sys2Proof.Machine.execDataFrom6 a w1 w2 s
  | .dataFrom7 a w1 w2 => Sys2Proof.Machine.execDataFrom7 a w1 w2 s
  | .dataFrom8 a w1 w2 => Sys2Proof.Machine.execDataFrom8 a w1 w2 s
  | .frmNewd a b w1 => Sys2Proof.Machine.execFrmNewd a b w1 s
  | .frmNewr a dlc w1 => Sys2Proof.Machine.execFrmNewr a dlc w1 s
  | .frmIsExt a => Sys2Proof.Machine.execFrmIsExt a s
  | .frmIsStd a => Sys2Proof.Machine.execFrmIsStd a s
  | .frmIsRem a => Sys2Proof.Machine.execFrmIsRem a s
  | .frmIsData a => Sys2Proof.Machine.execFrmIsData a s
  | .frmId a => Sys2Proof.Machine.execFrmId a s
  | .frmDlc a => Sys2Proof.Machine.execFrmDlc a s
  | .frmData a b => Sys2Proof.Machine.execFrmData a b s
  | .frmPrio a b => Sys2Proof.Machine.execFrmPrio a b s
  | .priCmp a b => Sys2Proof.Machine.execPriCmp a b s
  | .arbSel mask => Sys2Proof.Machine.execArbSel mask s

end Sys2Proof.Machine
end

