-- ==== Sys2Proof/Machine/Step.lean ====
section
/-!
DEFINITION. One step of the machine: the block takes the host's next action (10_state.md R43). A command is one step (20_memory.md R55).
-/

namespace Sys2Proof.Machine

/-- One step. With no host action left the block waits (70_reset_and_hazards.md R271). A host read changes nothing in the block
(20_memory.md R56). Under RST the packet presented is not executed (R270). A legal packet executes its command; an illegal
one is consumed and raises IllegalCommand (60_exceptions.md R245); a truncated one has no move (20_memory.md R54). -/
def step (s : State) : Host.Outcome State Fault Refusal :=
  match s.host with
  | [] => .next s
  | .read _ :: rest => .next { s with host := rest }
  | .reset _ :: rest => .next (State.takeReset { s with host := rest })
  | .issue ws :: rest =>
    match decode ws with
    | .command i ws' => exec i { s with host := presentRest ws' rest }
    | .illegal ws' => .next (State.raise { s with host := presentRest ws' rest } .illegalCommand)
    | .truncated => .refused .truncatedPacket
    | .nothing => .next { s with host := rest }

/-- `s` with the host presenting, as its very next action, the packet whose bits are the low `nbits` bits of `w`. -/
def State.withFetchWord (s : State) (nbits w : Nat) : State :=
  { s with host := .issue (tablePacket nbits w) :: s.host }

end Sys2Proof.Machine
end

