-- ==== Sys2Proof/Machine/Assembler.lean ====
section
/-!
DEFINITION. The assembler's lines and what they assemble to (30_encoding.md R83, R84). A line is a term, not text (log 12). The forms
whose operands are the fields of a command as they stand need no line of their own; the others write an Id or a byte list.
-/

namespace Sys2Proof.Machine

/-- An Id operand: `std(V)` is the IDW with T = 0, `ext(V)` the one with T = 1 (30_encoding.md R83). -/
inductive IdOperand where
  | std (v : BitVec 29)
  | ext (v : BitVec 29)
deriving DecidableEq, Repr

/-- One line of R83, or one pseudo-instruction of R84. -/
inductive Line where
  /-- A form whose operands are register names and numbers alone. -/
  | command (i : Instr)
  /-- `DATA.NEW dra, LEN, [bytes]`. -/
  | dataNew (a : RegIdx) (len : BitVec 8) (bytes : List Byte)
  /-- `DATA.FROMk dra, [b0..bk-1]`. -/
  | dataFrom (k : Nat) (a : RegIdx) (bytes : List Byte)
  /-- `FRM.NEWD fra, drb, <Id>`. -/
  | frmNewd (a b : RegIdx) (id : IdOperand)
  /-- `FRM.NEWR fra, <Id>, DLC`. -/
  | frmNewr (a : RegIdx) (id : IdOperand) (dlc : BitVec 8)
  /-- `ID.NEW ira, <Id>`, a pseudo-instruction. -/
  | idNew (a : RegIdx) (id : IdOperand)
  /-- `DATA.LIT dra, [b0, ..., bk-1]`, a pseudo-instruction. -/
  | dataLit (a : RegIdx) (bytes : List Byte)
  /-- `ARB.ALL`, a pseudo-instruction. -/
  | arbAll
deriving DecidableEq, Repr

/-- The IDW of an Id operand (30_encoding.md R73, R83). -/
def idOperandWord : IdOperand → Word
  | .std v => v.zeroExtend 32
  | .ext v => 0x80000000 ||| v.zeroExtend 32

/-- The first payload word of a byte list, packed from lane 0 with unlisted lanes 0 (30_encoding.md R83). -/
def bytesLow (bs : List Byte) : Word := packWord (bs.getD 0 0) (bs.getD 1 0) (bs.getD 2 0) (bs.getD 3 0)

/-- The second payload word of a byte list. -/
def bytesHigh (bs : List Byte) : Word := packWord (bs.getD 4 0) (bs.getD 5 0) (bs.getD 6 0) (bs.getD 7 0)

/-- The `DATA.FROMk` of a list of k bytes; none for more than 8 (30_encoding.md R83, R84). -/
def dataFromBytes (a : RegIdx) (bs : List Byte) : Option Instr :=
  match bs.length with
  | 0 => some (.dataFrom0 a)
  | 1 => some (.dataFrom1 a (bytesLow bs))
  | 2 => some (.dataFrom2 a (bytesLow bs))
  | 3 => some (.dataFrom3 a (bytesLow bs))
  | 4 => some (.dataFrom4 a (bytesLow bs))
  | 5 => some (.dataFrom5 a (bytesLow bs) (bytesHigh bs))
  | 6 => some (.dataFrom6 a (bytesLow bs) (bytesHigh bs))
  | 7 => some (.dataFrom7 a (bytesLow bs) (bytesHigh bs))
  | 8 => some (.dataFrom8 a (bytesLow bs) (bytesHigh bs))
  | _ => none

/-- The command a line assembles to; none for a line that R83 or R84 does not allow (a byte list of the wrong length). -/
def assemble : Line → Option Instr
  | .command i => some i
  | .dataNew a len bs => if bs.length ≤ 8 then some (.dataNew a len (bytesLow bs) (bytesHigh bs)) else none
  | .dataFrom k a bs => if bs.length = k then dataFromBytes a bs else none
  | .frmNewd a b id => some (.frmNewd a b (idOperandWord id))
  | .frmNewr a id dlc => some (.frmNewr a dlc (idOperandWord id))
  | .idNew a (.std v) => some (.idStd a (v.zeroExtend 32))
  | .idNew a (.ext v) => some (.idExt a (v.zeroExtend 32))
  | .dataLit a bs => dataFromBytes a bs
  | .arbAll => some (.arbSel 0xFF)

/-- The packet of a line (30_encoding.md R71, R81, R83). -/
def assembleWords (l : Line) : Option (List Word) := (assemble l).map encode

end Sys2Proof.Machine
end

