-- ==== Sys2Proof/WellFormed.lean ====
section
/-!
DEFINITION. Which commands are legal for given register-file sizes: every register index lies below the size of the file its
opcode assigns to it, and every bit of an `ARB.SEL` MASK selects a register that exists (30_encoding.md R78, 60_exceptions.md
R246). The widths of all other fields are in their types. A command that is not well-formed still decodes and executes: it
ends with IndexRange.
-/

namespace Sys2Proof

/-- The index names a register of a file of `n` registers (30_encoding.md R78). -/
def indexLegal (n : Nat) (i : RegIdx) : Bool :=
  decide (i.toNat < n)

/-- Every register an `ARB.SEL` MASK selects exists (43_priority.md R222). -/
def maskLegal (n : Nat) (mask : BitVec 8) : Bool :=
  [0, 1, 2, 3, 4, 5, 6, 7].all fun i => !mask.getLsbD i || decide (i < n)

/-- Every register the command names exists in files of the sizes `z` (30_encoding.md R78). -/
def Instr.wellFormed (z : Sizes) : Instr → Bool
  | .idStd a _ => indexLegal z.nir a
  | .idExt a _ => indexLegal z.nir a
  | .idRtr a b _ => indexLegal z.nir a && indexLegal z.nir b
  | .idIsExt a => indexLegal z.nir a
  | .idIsStd a => indexLegal z.nir a
  | .idGetRtr a => indexLegal z.nir a
  | .idToId a => indexLegal z.nir a
  | .idCmp a b => indexLegal z.nir a && indexLegal z.nir b
  | .idRaw a => indexLegal z.nir a
  | .dataNew a _ _ _ => indexLegal z.ndr a
  | .dataEmpty a => indexLegal z.ndr a
  | .dataLen a => indexLegal z.ndr a
  | .dataIsEmpty a => indexLegal z.ndr a
  | .dataView a => indexLegal z.ndr a
  | .dataRdb a _ => indexLegal z.ndr a
  | .dataWrb a _ _ => indexLegal z.ndr a
  | .dataEq a b => indexLegal z.ndr a && indexLegal z.ndr b
  | .dataFrom0 a => indexLegal z.ndr a
  | .dataFrom1 a _ => indexLegal z.ndr a
  | .dataFrom2 a _ => indexLegal z.ndr a
  | .dataFrom3 a _ => indexLegal z.ndr a
  | .dataFrom4 a _ => indexLegal z.ndr a
  | .dataFrom5 a _ _ => indexLegal z.ndr a
  | .dataFrom6 a _ _ => indexLegal z.ndr a
  | .dataFrom7 a _ _ => indexLegal z.ndr a
  | .dataFrom8 a _ _ => indexLegal z.ndr a
  | .frmNewd a b _ => indexLegal z.nfr a && indexLegal z.ndr b
  | .frmNewr a _ _ => indexLegal z.nfr a
  | .frmIsExt a => indexLegal z.nfr a
  | .frmIsStd a => indexLegal z.nfr a
  | .frmIsRem a => indexLegal z.nfr a
  | .frmIsData a => indexLegal z.nfr a
  | .frmId a => indexLegal z.nfr a
  | .frmDlc a => indexLegal z.nfr a
  | .frmData a b => indexLegal z.ndr a && indexLegal z.nfr b
  | .frmPrio a b => indexLegal z.npr a && indexLegal z.nfr b
  | .priCmp a b => indexLegal z.npr a && indexLegal z.npr b
  | .arbSel mask => maskLegal z.npr mask

end Sys2Proof
end

