-- ==== Sys2Proof/Safety.lean ====
section
/-!
DEFINITION. The terms claims are stated in: how a command may end, in the raw words of the spec; the encoding claim of one opcode;
the invariant of the state; the conditions of 60_exceptions.md R249 read off a command and a state; the observations of
10_state.md R28 and R30; and the reading 60_exceptions.md R241 asks of a claim about a run.
-/

namespace Sys2Proof.Safety

open Sys2Proof.Machine

/-- A command completed: STATUS.CODE is 0 and FAULT is as it was (60_exceptions.md R240, R251). -/
def ok (s : State) : State := { s with status := s.status &&& 0x100 }

/-- A command ended with rejection `code` (1 to 3) and changed nothing but STATUS, FAULT kept (60_exceptions.md R250, R251). -/
def rejected (s : State) (code : Word) : State := { s with status := (s.status &&& 0x100) ||| code }

/-- A command ended with fault `code` (8 to 11) and changed nothing but STATUS, FAULT set (60_exceptions.md R250, R251). -/
def faulted (s : State) (code : Word) : State := { s with status := 0x100 ||| code }

/-- Register `i` of a file holds `v` (10_state.md R36). -/
abbrev holds {α : Type} (file : List (Option α)) (i : RegIdx) (v : α) : Prop := file[i.toNat]? = some (some v)

/-- Register `i` of a file exists and holds `⊥` (10_state.md R36). -/
abbrev isUnwritten {α : Type} (file : List (Option α)) (i : RegIdx) : Prop := file[i.toNat]? = some none

/-- Register `i` of a file exists (30_encoding.md R78). -/
abbrev inFile {α : Type} (file : List (Option α)) (i : RegIdx) : Prop := i.toNat < file.length

/-- The host's further actions once a packet is consumed: the words left over are its next packets (70_reset_and_hazards.md R273). -/
def afterPacket (rest : List Word) (acts : List HostAction) : List HostAction :=
  if rest = [] then acts else .issue rest :: acts

/-- What a packet with opcode `op` does: `mask` gives its fixed bits, `n` its operand words, and `mk header w1 w2` its command (an
absent word is passed as 0). A legal header executes the command, one with a reserved bit set raises IllegalCommand, and either
way the packet's words are consumed and no others (30_encoding.md R70, R72, R79, R81, R82). -/
def runsAs (op : BitVec 8) (mask : Word) (n : Nat) (mk : Word → Word → Word → Instr) : Prop :=
  ∀ (h : Word) (ops rest : List Word) (acts : List HostAction) (s : State),
    h.extractLsb' 24 8 = op → ops.length = n →
    step { s with host := .issue (h :: ops ++ rest) :: acts } =
      if h &&& mask = op.zeroExtend 32 <<< 24 then
        exec (mk h (ops.getD 0 0) (ops.getD 1 0)) { s with host := afterPacket rest acts }
      else .next (faulted { s with host := afterPacket rest acts } 8)

/-- The field A of a header (30_encoding.md R71). -/
def fieldA (h : Word) : RegIdx := h.extractLsb' 21 3

/-- The field B of a header (30_encoding.md R71). -/
def fieldB (h : Word) : RegIdx := h.extractLsb' 18 3

/-- The IdReg of an IDW with RTR = 0, in raw bits; `none` for a word that is no valid Id (30_encoding.md R73, 40_idreg.md R109). -/
def idRegOfIdW (w : Word) : Option IdReg :=
  if w.getLsbD 31 then
    if w.extractLsb' 29 2 = 0 then some ((w.extractLsb' 0 29).zeroExtend 32 <<< 3) else none
  else
    if w.extractLsb' 11 20 = 0 then some (((w.extractLsb' 0 11).zeroExtend 32 <<< 21) ||| 4) else none

/-- Lane `i` of two words that carry payload lanes (20_memory.md R52). -/
def wordLane (w0 w1 : Word) (i : Nat) : Byte := (if i < 4 then w0 else w1).extractLsb' (8 * (i % 4)) 8

/-- The Data of length `n` with the first `n` lanes of two operand words (41_data.md R140, 30_encoding.md R76). -/
def payload (n : Fin 9) (w1 w2 : Word) : Data :=
  ⟨n, Vector.ofFn fun i => if i.val < n.val then wordLane w1 w2 i.val else 0⟩

/-! ### The invariant of the state -/

/-- A canonical IdReg (10_state.md R25): bit 0 is 0, and a standard one has bits 20:3 zero. -/
def canonical (r : IdReg) : Bool :=
  !r.getLsbD 0 && (!r.getLsbD 2 || r.extractLsb' 3 18 == 0)

/-- The lanes at or past `len` are zero (10_state.md R28). -/
def tailZero (d : Data) : Bool :=
  decide (∀ i : Fin 8, d.len.val ≤ i.val → d.buf[i] = 0)

/-- A frame as the frame formatter builds it (10_state.md R29; 42_frame.md R191): a canonical IdReg, and for a data frame a Data
with a zero tail, for a remote frame a length of at most 7 and no byte populated. -/
def wellBuilt (fr : Frame) : Bool :=
  canonical fr.id && tailZero fr.data &&
    (!fr.id.getLsbD 1 || (decide (fr.data.len.val ≤ 7) && fr.data.buf == Vector.replicate 8 0))

/-- Every written register of a file satisfies `p`. -/
def allWritten {α : Type} (p : α → Bool) (file : List (Option α)) : Bool :=
  file.all fun o => o.all p

/-- STATUS as the block can leave it (10_state.md R37; 60_exceptions.md R240, R251): reserved bits zero, a code of the table, and
FAULT set when the code is a fault. -/
def statusLegal (st : Word) : Bool :=
  [0x000, 0x001, 0x002, 0x003, 0x100, 0x101, 0x102, 0x103, 0x108, 0x109, 0x10A, 0x10B].contains st

/-- The invariant of the block: legal file sizes (00_scope.md R7), canonical IdRegs and keys (10_state.md R25, R30), zero tail
lanes (R28), well-built frames (R29) and a legal STATUS (R37). -/
def invariant (s : State) : Bool :=
  s.sizes.legal && allWritten canonical s.ir && allWritten tailZero s.dr && allWritten wellBuilt s.fr &&
    allWritten canonical s.pr && statusLegal s.status

/-! ### Which error a command reports (60_exceptions.md R249) -/

/-- An IDW that is no valid Id (30_encoding.md R73; 60_exceptions.md R244). -/
def badIdW (w : Word) : Bool :=
  if w.getLsbD 31 then w.extractLsb' 29 2 != 0 else w.extractLsb' 11 20 != 0

/-- The command's Id operand word is not a valid Id (60_exceptions.md R244). -/
def badIdentifier : Instr → Bool
  | .idStd _ w1 => w1.extractLsb' 11 21 != 0
  | .idExt _ w1 => w1.extractLsb' 29 3 != 0
  | .frmNewd _ _ w1 => badIdW w1
  | .frmNewr _ _ w1 => badIdW w1
  | _ => false

/-- Register `i` of the file holds `⊥`, as a Boolean. -/
def unwrittenAt {α : Type} (file : List (Option α)) (i : RegIdx) : Bool :=
  match file[i.toNat]? with
  | some none => true
  | _ => false

/-- A source register of the command holds `⊥` (60_exceptions.md R247). -/
def readsUnwritten (s : State) : Instr → Bool
  | .idRtr _ b _ => unwrittenAt s.ir b
  | .idIsExt a | .idIsStd a | .idGetRtr a | .idToId a | .idRaw a => unwrittenAt s.ir a
  | .idCmp a b => unwrittenAt s.ir a || unwrittenAt s.ir b
  | .dataLen a | .dataIsEmpty a | .dataView a | .dataRdb a _ | .dataWrb a _ _ => unwrittenAt s.dr a
  | .dataEq a b => unwrittenAt s.dr a || unwrittenAt s.dr b
  | .frmNewd _ b _ => unwrittenAt s.dr b
  | .frmIsExt a | .frmIsStd a | .frmIsRem a | .frmIsData a | .frmId a | .frmDlc a => unwrittenAt s.fr a
  | .frmData _ b | .frmPrio _ b => unwrittenAt s.fr b
  | .priCmp a b => unwrittenAt s.pr a || unwrittenAt s.pr b
  | .arbSel mask =>
    [0, 1, 2, 3, 4, 5, 6, 7].any fun i : RegIdx => mask.getLsbD i.toNat && unwrittenAt s.pr i
  | _ => false

/-- The length of the Data that register `i` holds; 0 for a register that holds none. -/
def lengthAt (file : List (Option Data)) (i : RegIdx) : Nat :=
  match file[i.toNat]? with
  | some (some d) => d.len.val
  | _ => 0

/-- The code of the operation's own condition (60_exceptions.md R242, R243, R248), 0 where it has none. -/
def ownCode (s : State) : Instr → Word
  | .dataNew _ len _ _ => if 8 < len.toNat then 1 else 0
  | .frmNewr _ dlc _ => if 8 ≤ dlc.toNat then 2 else 0
  | .dataRdb a idx | .dataWrb a idx _ => if lengthAt s.dr a ≤ idx.toNat then 11 else 0
  | _ => 0

/-- The code a decoded command reports: the first condition that applies, in the order of 60_exceptions.md R249. -/
def reportedCode (s : State) (i : Instr) : Word :=
  if !i.wellFormed s.sizes then 9
  else if badIdentifier i then 3
  else if readsUnwritten s i then 10
  else ownCode s i

/-- `STATUS.CODE` as a word (10_state.md R37). -/
def codeOf (st : Word) : Word := st &&& 0xF

/-- `STATUS.FAULT` (10_state.md R37). -/
def faultOf (st : Word) : Bool := st.getLsbD 8

/-! ### What commands may write -/

/-- The predicates and accessors of 20_memory.md R56, which write only RES0-RES2 and STATUS. -/
def readOnly : Instr → Bool
  | .idIsExt _ | .idIsStd _ | .idGetRtr _ | .idToId _ | .idCmp _ _ | .idRaw _ => true
  | .dataLen _ | .dataIsEmpty _ | .dataView _ | .dataRdb _ _ | .dataEq _ _ => true
  | .frmIsExt _ | .frmIsStd _ | .frmIsRem _ | .frmIsData _ | .frmId _ | .frmDlc _ => true
  | .priCmp _ _ | .arbSel _ => true
  | _ => false

/-- The register a command may write, as a file name and an index: the destination columns of 10_state.md R32-R35. -/
inductive Destination where
  | inIr (a : RegIdx)
  | inDr (a : RegIdx)
  | inFr (a : RegIdx)
  | inPr (a : RegIdx)
  | noRegister
deriving DecidableEq, Repr

/-- The one register a command may write (10_state.md R32-R35). -/
def destination : Instr → Destination
  | .idStd a _ | .idExt a _ | .idRtr a _ _ => .inIr a
  | .dataNew a _ _ _ | .dataEmpty a | .dataWrb a _ _ | .frmData a _ => .inDr a
  | .dataFrom0 a | .dataFrom1 a _ | .dataFrom2 a _ | .dataFrom3 a _ | .dataFrom4 a _ => .inDr a
  | .dataFrom5 a _ _ | .dataFrom6 a _ _ | .dataFrom7 a _ _ | .dataFrom8 a _ _ => .inDr a
  | .frmNewd a _ _ | .frmNewr a _ _ => .inFr a
  | .frmPrio a _ => .inPr a
  | _ => .noRegister

/-- Two states agree on every register but the destination `d`. -/
def sameRegistersBut (d : Destination) (s t : State) : Prop :=
  (∀ i : Nat, d ≠ .inIr (BitVec.ofNat 3 i) ∨ 8 ≤ i → t.ir[i]? = s.ir[i]?) ∧
  (∀ i : Nat, d ≠ .inDr (BitVec.ofNat 3 i) ∨ 8 ≤ i → t.dr[i]? = s.dr[i]?) ∧
  (∀ i : Nat, d ≠ .inFr (BitVec.ofNat 3 i) ∨ 8 ≤ i → t.fr[i]? = s.fr[i]?) ∧
  (∀ i : Nat, d ≠ .inPr (BitVec.ofNat 3 i) ∨ 8 ≤ i → t.pr[i]? = s.pr[i]?)

/-- Which result registers a command may write: 0 for none, 1 for RES0, 3 for all three (10_state.md R38). -/
def resultCount : Instr → Nat
  | .dataView _ => 3
  | .frmData _ _ => 1
  | i => if readOnly i then 1 else 0

/-! ### What the host can observe -/

/-- The values of the four output ports (10_state.md R42). -/
def outputs (s : State) : Word × Word × Word × Word := (s.status, s.res0, s.res1, s.res2)

/-- Two payloads with the same bounded view (10_state.md R28; 41_data.md R141, R142). -/
def sameView (d e : Data) : Prop :=
  d.len = e.len ∧ ∀ i : Fin 8, i.val < d.len.val → d.buf[i] = e.buf[i]

/-- Two frames that differ at most in lanes no command exposes: the tail lanes of a data frame's Data, all lanes of a remote
frame's (10_state.md R28, R41). -/
def sameFrameView (f g : Frame) : Prop :=
  f.id = g.id ∧ f.data.len = g.data.len ∧ (f.id.getLsbD 1 = false → sameView f.data g.data)

/-- Two registers that are both unwritten, or both hold values related by `r`. -/
def relReg {α : Type} (r : α → α → Prop) : Option α → Option α → Prop
  | none, none => True
  | some x, some y => r x y
  | _, _ => False

/-- Two states that differ at most in lanes no command exposes (10_state.md R41). -/
def sameButHidden (s t : State) : Prop :=
  s.ir = t.ir ∧ List.Forall₂ (relReg sameView) s.dr t.dr ∧ List.Forall₂ (relReg sameFrameView) s.fr t.fr ∧
    s.pr = t.pr ∧ outputs s = outputs t ∧ s.host = t.host

/-- Two priority files with the same written marks and the same order between any two keys (10_state.md R30). -/
def sameOrder (p q : List (Option FramePriority)) : Prop :=
  p.length = q.length ∧ (∀ i : Nat, p[i]? = some none ↔ q[i]? = some none) ∧
    ∀ (i j : Nat) (x y x' y' : FramePriority), p[i]? = some (some x) → p[j]? = some (some y) → q[i]? = some (some x') → q[j]? = some (some y') →
      ((x < y ↔ x' < y') ∧ (x = y ↔ x' = y'))

/-- Repeated arbitration (43_priority.md R223): the winners of `ARB.SEL S`, `ARB.SEL (S without w1)`, and so on, as `exec`
gives them, ending when VALID is 0 or the fuel is spent. -/
def arbSort : Nat → BitVec 8 → State → List Nat
  | 0, _, _ => []
  | n + 1, mask, s =>
    match exec (.arbSel mask) s with
    | .next t =>
      if t.res0.getLsbD 8 then
        (t.res0.extractLsb' 0 3).toNat :: arbSort n (mask &&& ~~~((1 : BitVec 8) <<< (t.res0.extractLsb' 0 3).toNat)) t
      else []
    | _ => []

/-! ### The reading of a run that 60_exceptions.md R241 asks for -/

/-- The model fault of a fault code (60_exceptions.md R240, R241). -/
def faultOfCode (code : Word) : Option Fault :=
  if code = 8 then some .illegalCommand
  else if code = 9 then some .indexRange
  else if code = 10 then some .unwritten
  else if code = 11 then some .viewBounds
  else none

/-- The next host action presents a packet. -/
def presentsPacket (s : State) : Bool :=
  match s.host with
  | .issue (_ :: _) :: _ => true
  | _ => false

/-- A step as a claim about a run reads it (60_exceptions.md R241): a command that ends with a fault code ends the run with that
model fault; everything else, a rejection among it, is the step of the hardware. -/
def claimStep (s : State) : Host.Outcome State Fault Refusal :=
  match step s with
  | .next t =>
    match if presentsPacket s then faultOfCode (codeOf t.status) else none with
    | some f => .fault f
    | none => .next t
  | .fault f => .fault f
  | .refused r => .refused r

/-- No command has faulted since reset: the premise of a claim about a run (93_implementation_defined.md I7). -/
def noFault (s : State) : Bool := !faultOf s.status

end Sys2Proof.Safety
end

