-- ==== Sys2Proof/Certificates/Slice0/Obligations.lean ====
section
/-!
DEFINITION. The statements about the model, from the numbered rules of spec/. Those about a command say what its packet does under
`step` (`runsAs`) and what `exec` answers for every operand and every state, in the raw words of the rule. How the host's side of
the ports stands in the state, which `runsAs` speaks of, is the model's (notes/assumptions/4.md).
-/

open Sys2Proof Sys2Proof.Machine Sys2Proof.Safety

/-! ### Encoding and framing -/

/-- 30_encoding.md R71, R81, R82: the decoder reads a command exactly from the words the encoder writes for it, so no bit of a
legal packet is dropped and no command has a second packet. -/
def Obligations.DecodeReadsExactlyTheEncoding : Prop :=
  ∀ (ws : List Word) (i : Instr) (rest : List Word), decode ws = .command i rest ↔ ws = encode i ++ rest

/-- 30_encoding.md R85: the spec's encoding examples, from the line to its words and from the words to the command. -/
def Obligations.SpecExampleWordsDecode : Prop :=
  assembleWords (.dataFrom 3 0 [1, 2, 3]) = some [0x33000000, 0x00030201] ∧
  assembleWords (.frmNewd 0 0 (.std 0x123)) = some [0x40000000, 0x00000123] ∧
  assembleWords (.frmNewr 1 (.ext 0x12345678) 7) = some [0x41200007, 0x92345678] ∧
  assembleWords (.command (.idRtr 3 1 1)) = some [0x12640001] ∧
  assembleWords (.command (.dataWrb 0 1 0xCC)) = some [0x260001CC] ∧
  assembleWords (.command (.frmPrio 1 1)) = some [0x49240000] ∧
  assembleWords (.command (.arbSel 7)) = some [0x51000007] ∧
  decode [0x33000000, 0x00030201] = .command (.dataFrom3 0 0x00030201) [] ∧
  decode [0x40000000, 0x00000123] = .command (.frmNewd 0 0 0x00000123) [] ∧
  decode [0x41200007, 0x92345678] = .command (.frmNewr 1 7 0x92345678) [] ∧
  decode [0x12640001] = .command (.idRtr 3 1 1) [] ∧
  decode [0x260001CC] = .command (.dataWrb 0 1 0xCC) [] ∧
  decode [0x49240000] = .command (.frmPrio 1 1) [] ∧
  decode [0x51000007] = .command (.arbSel 7) []

/-- 30_encoding.md R84: each pseudo-instruction expands to one command, and what those commands then do. -/
def Obligations.PseudoInstructionsExpandToOneCommand : Prop :=
  (∀ (a : RegIdx) (v : BitVec 29), assemble (.idNew a (.std v)) = some (.idStd a (v.zeroExtend 32)) ∧
    assemble (.idNew a (.ext v)) = some (.idExt a (v.zeroExtend 32))) ∧
  (∀ (a : RegIdx) (bs : List Byte), bs.length ≤ 8 → ∃ i, assemble (.dataLit a bs) = some i ∧
    assemble (.dataFrom bs.length a bs) = some i ∧
    ∀ s : State, inFile s.dr a → ∃ d : Data, exec i s = .next (ok { s with dr := s.dr.set a.toNat (some d) }) ∧
      d.len.val = bs.length ∧ d.buf.toList.take bs.length = bs) ∧
  assemble .arbAll = some (.arbSel 0xFF) ∧
  (∀ s : State, (s.pr.length < 8 → exec (.arbSel 0xFF) s = .next (faulted s 9)) ∧
    (s.pr.length = 8 → ∃ t, exec (.arbSel 0xFF) s = .next t ∧ codeOf t.status ≠ 9))

/-- 30_encoding.md R70, R72: the number of operand words is a function of the opcode alone, and the block consumes exactly the
header and those words. -/
def Obligations.PacketLengthComesFromOpcode : Prop :=
  ∀ (h : Word) (ws : List Word),
    let op := (h.extractLsb' 24 8).toNat
    let n := if op ∈ [0x10, 0x11, 0x31, 0x32, 0x33, 0x34, 0x40, 0x41] then 1
      else if op ∈ [0x20, 0x35, 0x36, 0x37, 0x38] then 2 else 0
    (ws.length < n → decode (h :: ws) = .truncated) ∧
    (n ≤ ws.length → decode (h :: ws) = .illegal (ws.drop n) ∨ ∃ i, decode (h :: ws) = .command i (ws.drop n))

/-- 30_encoding.md R79, R80; 60_exceptions.md R245: an unassigned opcode, or a reserved bit of an assigned one, raises
IllegalCommand; the packet is the header alone in the first case and keeps its operand words in the second. -/
def Obligations.IllegalHeadersRaiseIllegalCommand : Prop :=
  ∀ (h : Word) (ops rest : List Word) (acts : List HostAction) (s : State),
    ((∀ m, opcode m ≠ h.extractLsb' 24 8) →
      step { s with host := .issue (h :: rest) :: acts } =
        .next (faulted { s with host := afterPacket rest acts } 8)) ∧
    (∀ m, opcode m = h.extractLsb' 24 8 → ops.length = operandCount m →
      h &&& fixedMask m ≠ (h.extractLsb' 24 8).zeroExtend 32 <<< 24 →
      step { s with host := .issue (h :: ops ++ rest) :: acts } =
        .next (faulted { s with host := afterPacket rest acts } 8)) ∧
    (∀ m, opcode m = h.extractLsb' 24 8 → ops.length = operandCount m →
      h &&& fixedMask m = (h.extractLsb' 24 8).zeroExtend 32 <<< 24 →
      ∃ i, i.mnemonic = m ∧ step { s with host := .issue (h :: ops ++ rest) :: acts } =
        exec i { s with host := afterPacket rest acts }) ∧
    (∀ m, opcode m ≠ 0x00 ∧ opcode m ≠ 0xFF)

/-- 20_memory.md R55, R58: when the words presented decode to a command, the step is its execution, with the words after the
packet left as the host's next action. That a host action may hold several packets, so that what follows one is the next action, is
the model's choice (notes/assumptions/4.md), not those rules'. -/
def Obligations.StepExecutesTheDecodedCommand : Prop :=
  ∀ (s : State) (ws rest : List Word) (acts : List HostAction) (i : Instr),
    s.host = .issue ws :: acts → decode ws = .command i rest →
    step s = exec i { s with host := if rest = [] then acts else .issue rest :: acts }

/-- 20_memory.md R58, 70_reset_and_hazards.md R273: presenting packets in one run of words is presenting them one after another.
That a host action may hold several packets is the model's choice (notes/assumptions/4.md). -/
def Obligations.RunOfPacketsIsTheirSequence : Prop :=
  ∀ (s : State) (i : Instr) (ws : List Word) (acts : List HostAction), ws ≠ [] →
    step { s with host := .issue (encode i ++ ws) :: acts } =
      step { s with host := .issue (encode i) :: .issue ws :: acts }

/-- 20_memory.md R54, 60_exceptions.md R252: the only stop is a truncated packet; no command and no error stops the block. -/
def Obligations.OnlyTruncatedPacketsStop : Prop :=
  (∀ s, (∃ t, step s = .next t) ∨ step s = .refused .truncatedPacket) ∧
  (∀ s, step s = .refused .truncatedPacket ↔ ∃ ws acts, s.host = .issue ws :: acts ∧ decode ws = .truncated) ∧
  (∀ i s, ∃ t, exec i s = .next t)

/-- 70_reset_and_hazards.md R271, R274; 20_memory.md R56: a block with no packet presented waits, and a host read returns the
register and changes nothing in the block. -/
def Obligations.WaitingAndHostReadsChangeNothing : Prop :=
  ∀ (s : State) (p : OutPort) (acts : List HostAction),
    (s.host = [] → step s = .next s) ∧
    step { s with host := .read p :: acts } = .next { s with host := acts } ∧
    s.hostRead .status = s.status ∧ s.hostRead .res0 = s.res0 ∧ s.hostRead .res1 = s.res1 ∧ s.hostRead .res2 = s.res2

/-! ### Operand words and payload lanes -/

/-- 30_encoding.md R73: the logical-Id word, both directions. -/
def Obligations.IdWordCodec : Prop :=
  (∀ w : Word, w.getLsbD 31 = false → w.extractLsb' 11 20 = 0 →
    decodeIdW w = .ok (.standard (w.extractLsb' 0 11))) ∧
  (∀ w : Word, w.getLsbD 31 = false → w.extractLsb' 11 20 ≠ 0 → decodeIdW w = .error .invalidIdentifier) ∧
  (∀ w : Word, w.getLsbD 31 = true → w.extractLsb' 29 2 = 0 →
    decodeIdW w = .ok (.extended (w.extractLsb' 0 29))) ∧
  (∀ w : Word, w.getLsbD 31 = true → w.extractLsb' 29 2 ≠ 0 → decodeIdW w = .error .invalidIdentifier) ∧
  (∀ v, encodeIdW (.standard v) = v.zeroExtend 32) ∧
  (∀ v, encodeIdW (.extended v) = 0x80000000 ||| v.zeroExtend 32) ∧
  (∀ w i, decodeIdW w = .ok i → encodeIdW i = w) ∧
  (∀ i, decodeIdW (encodeIdW i) = .ok i)

/-- 30_encoding.md R74, R75: the raw identifier words. -/
def Obligations.RawIdentifierWordsAreWidthChecked : Prop :=
  ∀ w : Word,
    (w.toNat < 2 ^ 11 → decodeStdW w = .ok (BitVec.ofNat 11 w.toNat)) ∧
    (2 ^ 11 ≤ w.toNat → decodeStdW w = .error .invalidIdentifier) ∧
    (w.toNat < 2 ^ 29 → decodeExtW w = .ok (BitVec.ofNat 29 w.toNat)) ∧
    (2 ^ 29 ≤ w.toNat → decodeExtW w = .error .invalidIdentifier)

/-- 20_memory.md R52; 41_data.md R140, R141: lane `i` travels in bits `8*(i mod 4)+7 : 8*(i mod 4)` of word `i div 4`, the builder
zeroes the lanes past the length, and the view shows them as zero. -/
def Obligations.LanesArePackedLittleEndian : Prop :=
  (∀ (w1 w2 : Word) (i : Fin 8),
    (lanes w1 w2)[i] = (if i.val / 4 = 0 then w1 else w2).extractLsb' (8 * (i.val % 4)) 8) ∧
  (∀ (n : Fin 9) (l : Vector Byte 8) (i : Fin 8),
    (mkData n l).len = n ∧ (mkData n l).buf[i] = if i.val < n.val then l[i] else 0) ∧
  (∀ (d : Data) (i : Fin 8),
    (if i.val / 4 = 0 then viewWordLow d else viewWordHigh d).extractLsb' (8 * (i.val % 4)) 8 =
      if i.val < d.len.val then d.buf[i] else 0) ∧
  (mkData 3 (lanes 0x00030201 0) = ⟨3, #v[1, 2, 3, 0, 0, 0, 0, 0]⟩)

/-- 30_encoding.md R76: the lanes that are not part of the payload are neither checked nor stored. -/
def Obligations.LanesPastThePayloadAreIgnored : Prop :=
  ∀ (a : RegIdx) (s : State) (w1 w2 v1 v2 : Word),
    (∀ len : BitVec 8, (∀ i < len.toNat, i < 8 → wordLane w1 w2 i = wordLane v1 v2 i) →
      exec (.dataNew a len w1 w2) s = exec (.dataNew a len v1 v2) s) ∧
    (wordLane w1 w2 0 = wordLane v1 v2 0 → exec (.dataFrom1 a w1) s = exec (.dataFrom1 a v1) s) ∧
    ((∀ i < 2, wordLane w1 w2 i = wordLane v1 v2 i) → exec (.dataFrom2 a w1) s = exec (.dataFrom2 a v1) s) ∧
    ((∀ i < 3, wordLane w1 w2 i = wordLane v1 v2 i) → exec (.dataFrom3 a w1) s = exec (.dataFrom3 a v1) s) ∧
    ((∀ i < 4, wordLane w1 w2 i = wordLane v1 v2 i) → exec (.dataFrom4 a w1) s = exec (.dataFrom4 a v1) s) ∧
    ((∀ i < 5, wordLane w1 w2 i = wordLane v1 v2 i) → exec (.dataFrom5 a w1 w2) s = exec (.dataFrom5 a v1 v2) s) ∧
    ((∀ i < 6, wordLane w1 w2 i = wordLane v1 v2 i) → exec (.dataFrom6 a w1 w2) s = exec (.dataFrom6 a v1 v2) s) ∧
    ((∀ i < 7, wordLane w1 w2 i = wordLane v1 v2 i) → exec (.dataFrom7 a w1 w2) s = exec (.dataFrom7 a v1 v2) s) ∧
    ((∀ i < 8, wordLane w1 w2 i = wordLane v1 v2 i) → exec (.dataFrom8 a w1 w2) s = exec (.dataFrom8 a v1 v2) s)

/-! ### The IdReg datapath -/

/-- 40_idreg.md R100, R101, R109: where the packers put each bit. -/
def Obligations.PackersPlaceTheIdentifier : Prop :=
  (∀ v : BitVec 11,
    packStd v = ((v.zeroExtend 32) <<< 21) ||| 0x00000004 ∧ (packStd v).extractLsb' 21 11 = v ∧
      (packStd v).extractLsb' 3 18 = 0 ∧ (packStd v).extractLsb' 0 3 = 0b100 ∧ idRegOf (.standard v) = packStd v) ∧
  (∀ v : BitVec 29,
    packExt v = (v.zeroExtend 32) <<< 3 ∧ (packExt v).extractLsb' 3 29 = v ∧ (packExt v).extractLsb' 0 3 = 0b000 ∧
      idRegOf (.extended v) = packExt v)

/-- 10_state.md R23, R24; 40_idreg.md R102, R103: IDE is bit 2 with 1 for standard, RTR is bit 1, and the replacer changes the RTR
bit and no other. -/
def Obligations.FlagBitsAreReadAndReplaced : Prop :=
  ∀ (r : IdReg) (f : BitVec 1),
    isStandard r = r.getLsbD 2 ∧ isExtended r = !r.getLsbD 2 ∧ (rtr r).getLsbD 0 = r.getLsbD 1 ∧
    setRtr r f = (r &&& 0xFFFFFFFD) ||| (f.zeroExtend 32 <<< 1) ∧
    ∀ k, (setRtr r f).getLsbD k = if k = 1 then f.getLsbD 0 else r.getLsbD k

/-- 40_idreg.md R104: IDE selects the top 11 bits or all 29, and on a canonical IdReg no information is lost. -/
def Obligations.UnpackerIsSelectedByIde : Prop :=
  ∀ r : IdReg,
    (r.getLsbD 2 = true → toId r = .standard (r.extractLsb' 21 11)) ∧
    (r.getLsbD 2 = false → toId r = .extended (r.extractLsb' 3 29)) ∧
    (canonical r = true → setRtr (idRegOf (toId r)) (rtr r) = r)

/-- 40_idreg.md R106: the ordering laws (a) to (f). -/
def Obligations.ComparisonOrdersIdentifiersThenRtr : Prop :=
  (∀ a b : BitVec 11, a < b → cmpIdReg (packStd a) (packStd b) = .lt) ∧
  (∀ a b : BitVec 29, a < b → cmpIdReg (packExt a) (packExt b) = .lt) ∧
  (∀ r : IdReg, canonical r = true → cmpIdReg (setRtr r 0) (setRtr r 1) = .lt) ∧
  (∀ (a b : BitVec 11) (f g : BitVec 1), a < b → cmpIdReg (setRtr (packStd a) f) (setRtr (packStd b) g) = .lt) ∧
  (∀ (a b : BitVec 29) (f g : BitVec 1), a < b → cmpIdReg (setRtr (packExt a) f) (setRtr (packExt b) g) = .lt) ∧
  (∀ r q : IdReg, canonical r = true → canonical q = true →
    (cmpIdReg r q = .eq ↔ toId r = toId q ∧ rtr r = rtr q)) ∧
  (∀ r q : IdReg, (cmpIdReg r q = .eq ↔ r = q) ∧ (cmpIdReg r q = .lt ↔ cmpIdReg q r = .gt)) ∧
  (∀ p q r : IdReg, cmpIdReg p q ≠ .gt → cmpIdReg q r ≠ .gt → cmpIdReg p r ≠ .gt)

/-- 40_idreg.md R107: the mixed-format order, with its three cases and the corrected property 3 of 90_conflicts.md C1. -/
def Obligations.MixedFormatsCompareByLeftAlignedValue : Prop :=
  ∀ (s : BitVec 11) (e : BitVec 29) (f g : BitVec 1),
    let xs := setRtr (packStd s) f
    let xe := setRtr (packExt e) g
    (e.toNat ≤ s.toNat * 2 ^ 18 → cmpIdReg xe xs = .lt) ∧
    (s.toNat * 2 ^ 18 < e.toNat → cmpIdReg xe xs = .gt) ∧
    (e.toNat / 2 ^ 18 = s.toNat → (cmpIdReg xe xs = .lt ↔ e.toNat % 2 ^ 18 = 0)) ∧
    (e.toNat / 2 ^ 18 ≠ s.toNat → (cmpIdReg xe xs = .lt ↔ e.toNat / 2 ^ 18 < s.toNat))

/-- 40_idreg.md R108: the round trips. -/
def Obligations.PackingRoundTrips : Prop :=
  (∀ v : BitVec 11, toId (packStd v) = .standard v ∧ rtr (packStd v) = 0) ∧
  (∀ v : BitVec 29, toId (packExt v) = .extended v ∧ rtr (packExt v) = 0) ∧
  (∀ (r : IdReg) (f : BitVec 1),
    toId (setRtr r f) = toId r ∧ isStandard (setRtr r f) = isStandard r ∧ rtr (setRtr r f) = f)

/-! ### The IdReg commands -/

/-- 40_idreg.md R110. -/
def Obligations.IdStdPacksAStandardIdentifier : Prop :=
  runsAs 0x10 0xFF1FFFFF 1 (fun h w1 _ => .idStd (fieldA h) w1) ∧
  ∀ (a : RegIdx) (w1 : Word) (s : State),
    (inFile s.ir a → w1.extractLsb' 11 21 = 0 →
      exec (.idStd a w1) s =
        .next (ok { s with ir := s.ir.set a.toNat (some (((w1.extractLsb' 0 11).zeroExtend 32 <<< 21) ||| 4)) })) ∧
    (¬ inFile s.ir a → exec (.idStd a w1) s = .next (faulted s 9)) ∧
    (inFile s.ir a → w1.extractLsb' 11 21 ≠ 0 → exec (.idStd a w1) s = .next (rejected s 3))

/-- 40_idreg.md R111. -/
def Obligations.IdExtPacksAnExtendedIdentifier : Prop :=
  runsAs 0x11 0xFF1FFFFF 1 (fun h w1 _ => .idExt (fieldA h) w1) ∧
  ∀ (a : RegIdx) (w1 : Word) (s : State),
    (inFile s.ir a → w1.extractLsb' 29 3 = 0 →
      exec (.idExt a w1) s =
        .next (ok { s with ir := s.ir.set a.toNat (some ((w1.extractLsb' 0 29).zeroExtend 32 <<< 3)) })) ∧
    (¬ inFile s.ir a → exec (.idExt a w1) s = .next (faulted s 9)) ∧
    (inFile s.ir a → w1.extractLsb' 29 3 ≠ 0 → exec (.idExt a w1) s = .next (rejected s 3))

/-- 40_idreg.md R112. -/
def Obligations.IdRtrReplacesTheRtrBit : Prop :=
  runsAs 0x12 0xFF03FFFE 0 (fun h _ _ => .idRtr (fieldA h) (fieldB h) (h.extractLsb' 0 1)) ∧
  ∀ (a b : RegIdx) (f : BitVec 1) (s : State),
    (∀ r, inFile s.ir a → holds s.ir b r →
      exec (.idRtr a b f) s =
        .next (ok { s with ir := s.ir.set a.toNat (some ((r &&& 0xFFFFFFFD) ||| (f.zeroExtend 32 <<< 1))) })) ∧
    (¬ inFile s.ir a ∨ ¬ inFile s.ir b → exec (.idRtr a b f) s = .next (faulted s 9)) ∧
    (inFile s.ir a → isUnwritten s.ir b → exec (.idRtr a b f) s = .next (faulted s 10))

/-- 40_idreg.md R113, R114, R115. -/
def Obligations.IdFlagReadsGiveTheBits : Prop :=
  runsAs 0x13 0xFF1FFFFF 0 (fun h _ _ => .idIsExt (fieldA h)) ∧
  runsAs 0x14 0xFF1FFFFF 0 (fun h _ _ => .idIsStd (fieldA h)) ∧
  runsAs 0x15 0xFF1FFFFF 0 (fun h _ _ => .idGetRtr (fieldA h)) ∧
  ∀ (a : RegIdx) (s : State),
    (∀ r, holds s.ir a r →
      exec (.idIsExt a) s = .next (ok { s with res0 := if r.getLsbD 2 then 0 else 1 }) ∧
      exec (.idIsStd a) s = .next (ok { s with res0 := if r.getLsbD 2 then 1 else 0 }) ∧
      exec (.idGetRtr a) s = .next (ok { s with res0 := if r.getLsbD 1 then 1 else 0 })) ∧
    (¬ inFile s.ir a → exec (.idIsExt a) s = .next (faulted s 9) ∧ exec (.idIsStd a) s = .next (faulted s 9) ∧
      exec (.idGetRtr a) s = .next (faulted s 9)) ∧
    (isUnwritten s.ir a → exec (.idIsExt a) s = .next (faulted s 10) ∧ exec (.idIsStd a) s = .next (faulted s 10) ∧
      exec (.idGetRtr a) s = .next (faulted s 10))

/-- 40_idreg.md R116. -/
def Obligations.IdToIdUnpacksTheIdentifier : Prop :=
  runsAs 0x16 0xFF1FFFFF 0 (fun h _ _ => .idToId (fieldA h)) ∧
  ∀ (a : RegIdx) (s : State),
    (∀ r, holds s.ir a r →
      exec (.idToId a) s = .next (ok { s with
        res0 := if r.getLsbD 2 then (r.extractLsb' 21 11).zeroExtend 32
        else 0x80000000 ||| (r.extractLsb' 3 29).zeroExtend 32 })) ∧
    (¬ inFile s.ir a → exec (.idToId a) s = .next (faulted s 9)) ∧
    (isUnwritten s.ir a → exec (.idToId a) s = .next (faulted s 10))

/-- 40_idreg.md R117. -/
def Obligations.IdCmpOrdersTwoRegisters : Prop :=
  runsAs 0x17 0xFF03FFFF 0 (fun h _ _ => .idCmp (fieldA h) (fieldB h)) ∧
  ∀ (a b : RegIdx) (s : State),
    (∀ x y, holds s.ir a x → holds s.ir b y →
      exec (.idCmp a b) s =
        .next (ok { s with res0 := if x.toNat < y.toNat then 1 else if x.toNat = y.toNat then 0 else 2 })) ∧
    (¬ inFile s.ir a ∨ ¬ inFile s.ir b → exec (.idCmp a b) s = .next (faulted s 9)) ∧
    (inFile s.ir a → inFile s.ir b → isUnwritten s.ir a ∨ isUnwritten s.ir b →
      exec (.idCmp a b) s = .next (faulted s 10))

/-- 40_idreg.md R118. Bit 0 of the result is 0 in every state that meets the invariant. -/
def Obligations.IdRawExportsTheRegister : Prop :=
  runsAs 0x18 0xFF1FFFFF 0 (fun h _ _ => .idRaw (fieldA h)) ∧
  ∀ (a : RegIdx) (s : State),
    (∀ r, holds s.ir a r → exec (.idRaw a) s = .next (ok { s with res0 := r })) ∧
    (∀ r t, invariant s = true → holds s.ir a r → exec (.idRaw a) s = .next t → t.res0.getLsbD 0 = false) ∧
    (¬ inFile s.ir a → exec (.idRaw a) s = .next (faulted s 9)) ∧
    (isUnwritten s.ir a → exec (.idRaw a) s = .next (faulted s 10))

/-! ### The Data commands -/

/-- 41_data.md R143. -/
def Obligations.DataNewBuildsOrRejects : Prop :=
  runsAs 0x20 0xFF1FFF00 2 (fun h w1 w2 => .dataNew (fieldA h) (h.extractLsb' 0 8) w1 w2) ∧
  ∀ (a : RegIdx) (len : BitVec 8) (w1 w2 : Word) (s : State),
    (∀ n : Fin 9, inFile s.dr a → n.val = len.toNat →
      exec (.dataNew a len w1 w2) s = .next (ok { s with dr := s.dr.set a.toNat (some (payload n w1 w2)) })) ∧
    (¬ inFile s.dr a → exec (.dataNew a len w1 w2) s = .next (faulted s 9)) ∧
    (inFile s.dr a → 8 < len.toNat → exec (.dataNew a len w1 w2) s = .next (rejected s 1))

/-- 41_data.md R144. -/
def Obligations.DataEmptyBuildsTheEmptyPayload : Prop :=
  runsAs 0x21 0xFF1FFFFF 0 (fun h _ _ => .dataEmpty (fieldA h)) ∧
  ∀ (a : RegIdx) (s : State),
    (inFile s.dr a →
      exec (.dataEmpty a) s = .next (ok { s with dr := s.dr.set a.toNat (some ⟨0, Vector.replicate 8 0⟩) })) ∧
    (¬ inFile s.dr a → exec (.dataEmpty a) s = .next (faulted s 9)) ∧
    (∀ d : Data, eqData ⟨0, Vector.replicate 8 0⟩ d = true ↔ d.len = 0)

/-- 41_data.md R145 to R154: the nine fixed-length conversions; an absent operand word reads as 0. -/
def Obligations.DataFromBuildsFixedLengths : Prop :=
  runsAs 0x30 0xFF1FFFFF 0 (fun h _ _ => .dataFrom0 (fieldA h)) ∧
  runsAs 0x31 0xFF1FFFFF 1 (fun h w1 _ => .dataFrom1 (fieldA h) w1) ∧
  runsAs 0x32 0xFF1FFFFF 1 (fun h w1 _ => .dataFrom2 (fieldA h) w1) ∧
  runsAs 0x33 0xFF1FFFFF 1 (fun h w1 _ => .dataFrom3 (fieldA h) w1) ∧
  runsAs 0x34 0xFF1FFFFF 1 (fun h w1 _ => .dataFrom4 (fieldA h) w1) ∧
  runsAs 0x35 0xFF1FFFFF 2 (fun h w1 w2 => .dataFrom5 (fieldA h) w1 w2) ∧
  runsAs 0x36 0xFF1FFFFF 2 (fun h w1 w2 => .dataFrom6 (fieldA h) w1 w2) ∧
  runsAs 0x37 0xFF1FFFFF 2 (fun h w1 w2 => .dataFrom7 (fieldA h) w1 w2) ∧
  runsAs 0x38 0xFF1FFFFF 2 (fun h w1 w2 => .dataFrom8 (fieldA h) w1 w2) ∧
  ∀ (a : RegIdx) (w1 w2 : Word) (s : State),
    (inFile s.dr a →
      exec (.dataFrom0 a) s = .next (ok { s with dr := s.dr.set a.toNat (some (payload 0 0 0)) }) ∧
      exec (.dataFrom1 a w1) s = .next (ok { s with dr := s.dr.set a.toNat (some (payload 1 w1 0)) }) ∧
      exec (.dataFrom2 a w1) s = .next (ok { s with dr := s.dr.set a.toNat (some (payload 2 w1 0)) }) ∧
      exec (.dataFrom3 a w1) s = .next (ok { s with dr := s.dr.set a.toNat (some (payload 3 w1 0)) }) ∧
      exec (.dataFrom4 a w1) s = .next (ok { s with dr := s.dr.set a.toNat (some (payload 4 w1 0)) }) ∧
      exec (.dataFrom5 a w1 w2) s = .next (ok { s with dr := s.dr.set a.toNat (some (payload 5 w1 w2)) }) ∧
      exec (.dataFrom6 a w1 w2) s = .next (ok { s with dr := s.dr.set a.toNat (some (payload 6 w1 w2)) }) ∧
      exec (.dataFrom7 a w1 w2) s = .next (ok { s with dr := s.dr.set a.toNat (some (payload 7 w1 w2)) }) ∧
      exec (.dataFrom8 a w1 w2) s = .next (ok { s with dr := s.dr.set a.toNat (some (payload 8 w1 w2)) })) ∧
    (¬ inFile s.dr a →
      ∀ i ∈ [Instr.dataFrom0 a, .dataFrom1 a w1, .dataFrom2 a w1, .dataFrom3 a w1, .dataFrom4 a w1,
        .dataFrom5 a w1 w2, .dataFrom6 a w1 w2, .dataFrom7 a w1 w2, .dataFrom8 a w1 w2],
        exec i s = .next (faulted s 9))

/-- 41_data.md R155, R156. -/
def Obligations.DataLengthIsRead : Prop :=
  runsAs 0x22 0xFF1FFFFF 0 (fun h _ _ => .dataLen (fieldA h)) ∧
  runsAs 0x23 0xFF1FFFFF 0 (fun h _ _ => .dataIsEmpty (fieldA h)) ∧
  ∀ (a : RegIdx) (s : State),
    (∀ d, holds s.dr a d →
      exec (.dataLen a) s = .next (ok { s with res0 := BitVec.ofNat 32 d.len.val }) ∧
      exec (.dataIsEmpty a) s = .next (ok { s with res0 := if d.len.val = 0 then 1 else 0 })) ∧
    (¬ inFile s.dr a → exec (.dataLen a) s = .next (faulted s 9) ∧ exec (.dataIsEmpty a) s = .next (faulted s 9)) ∧
    (isUnwritten s.dr a →
      exec (.dataLen a) s = .next (faulted s 10) ∧ exec (.dataIsEmpty a) s = .next (faulted s 10))

/-- 41_data.md R157. -/
def Obligations.DataViewShowsTheBoundedView : Prop :=
  runsAs 0x24 0xFF1FFFFF 0 (fun h _ _ => .dataView (fieldA h)) ∧
  ∀ (a : RegIdx) (s : State),
    (∀ d, holds s.dr a d → ∃ v0 v1,
      exec (.dataView a) s =
        .next (ok { s with res0 := BitVec.ofNat 32 d.len.val, res1 := v0, res2 := v1 }) ∧
      ∀ i : Fin 8, wordLane v0 v1 i.val = if i.val < d.len.val then d.buf[i] else 0) ∧
    (¬ inFile s.dr a → exec (.dataView a) s = .next (faulted s 9)) ∧
    (isUnwritten s.dr a → exec (.dataView a) s = .next (faulted s 10))

/-- 41_data.md R158. -/
def Obligations.DataRdbReadsOneLane : Prop :=
  runsAs 0x25 0xFF1FF8FF 0 (fun h _ _ => .dataRdb (fieldA h) (h.extractLsb' 8 3)) ∧
  ∀ (a : RegIdx) (idx : BitVec 3) (s : State),
    (∀ d, holds s.dr a d → idx.toNat < d.len.val →
      exec (.dataRdb a idx) s = .next (ok { s with res0 := (d.buf[idx.toFin]).zeroExtend 32 })) ∧
    (∀ d, holds s.dr a d → d.len.val ≤ idx.toNat → exec (.dataRdb a idx) s = .next (faulted s 11)) ∧
    (¬ inFile s.dr a → exec (.dataRdb a idx) s = .next (faulted s 9)) ∧
    (isUnwritten s.dr a → exec (.dataRdb a idx) s = .next (faulted s 10))

/-- 41_data.md R159. -/
def Obligations.DataWrbWritesOneLane : Prop :=
  runsAs 0x26 0xFF1FF800 0 (fun h _ _ => .dataWrb (fieldA h) (h.extractLsb' 8 3) (h.extractLsb' 0 8)) ∧
  ∀ (a : RegIdx) (idx : BitVec 3) (byte : Byte) (s : State),
    (∀ d, holds s.dr a d → idx.toNat < d.len.val → ∃ e : Data,
      exec (.dataWrb a idx byte) s = .next (ok { s with dr := s.dr.set a.toNat (some e) }) ∧
      e.len = d.len ∧ ∀ i : Fin 8, e.buf[i] = if i.val = idx.toNat then byte else d.buf[i]) ∧
    (∀ d, holds s.dr a d → d.len.val ≤ idx.toNat → exec (.dataWrb a idx byte) s = .next (faulted s 11)) ∧
    (¬ inFile s.dr a → exec (.dataWrb a idx byte) s = .next (faulted s 9)) ∧
    (isUnwritten s.dr a → exec (.dataWrb a idx byte) s = .next (faulted s 10))

/-- 41_data.md R142, R160. -/
def Obligations.DataEqComparesBoundedViews : Prop :=
  runsAs 0x27 0xFF03FFFF 0 (fun h _ _ => .dataEq (fieldA h) (fieldB h)) ∧
  (∀ d e : Data, eqData d e = true ↔ d.buf.toList.take d.len.val = e.buf.toList.take e.len.val) ∧
  ∀ (a b : RegIdx) (s : State),
    (∀ d e, holds s.dr a d → holds s.dr b e →
      exec (.dataEq a b) s = .next (ok { s with
        res0 := if d.len = e.len ∧ ∀ i : Fin 8, i.val < d.len.val → d.buf[i] = e.buf[i] then 1 else 0 })) ∧
    (¬ inFile s.dr a ∨ ¬ inFile s.dr b → exec (.dataEq a b) s = .next (faulted s 9)) ∧
    (inFile s.dr a → inFile s.dr b → isUnwritten s.dr a ∨ isUnwritten s.dr b →
      exec (.dataEq a b) s = .next (faulted s 10))

/-! ### The Frame commands -/

/-- 42_frame.md R181. -/
def Obligations.FrmNewdFormatsADataFrame : Prop :=
  runsAs 0x40 0xFF03FFFF 1 (fun h w1 _ => .frmNewd (fieldA h) (fieldB h) w1) ∧
  ∀ (a b : RegIdx) (w1 : Word) (s : State),
    (∀ r d, inFile s.fr a → holds s.dr b d → idRegOfIdW w1 = some r →
      exec (.frmNewd a b w1) s = .next (ok { s with fr := s.fr.set a.toNat (some ⟨r, d⟩) })) ∧
    (¬ inFile s.fr a ∨ ¬ inFile s.dr b → exec (.frmNewd a b w1) s = .next (faulted s 9)) ∧
    (inFile s.fr a → inFile s.dr b → idRegOfIdW w1 = none → exec (.frmNewd a b w1) s = .next (rejected s 3)) ∧
    (inFile s.fr a → isUnwritten s.dr b → idRegOfIdW w1 ≠ none → exec (.frmNewd a b w1) s = .next (faulted s 10))

/-- 42_frame.md R182. -/
def Obligations.FrmNewrFormatsARemoteFrame : Prop :=
  runsAs 0x41 0xFF1FFF00 1 (fun h w1 _ => .frmNewr (fieldA h) (h.extractLsb' 0 8) w1) ∧
  ∀ (a : RegIdx) (dlc : BitVec 8) (w1 : Word) (s : State),
    (∀ r (n : Fin 9), inFile s.fr a → idRegOfIdW w1 = some r → n.val = dlc.toNat → dlc.toNat < 8 →
      exec (.frmNewr a dlc w1) s =
        .next (ok { s with fr := s.fr.set a.toNat (some ⟨r ||| 2, ⟨n, Vector.replicate 8 0⟩⟩) })) ∧
    (¬ inFile s.fr a → exec (.frmNewr a dlc w1) s = .next (faulted s 9)) ∧
    (inFile s.fr a → idRegOfIdW w1 = none → exec (.frmNewr a dlc w1) s = .next (rejected s 3)) ∧
    (inFile s.fr a → idRegOfIdW w1 ≠ none → 8 ≤ dlc.toNat → exec (.frmNewr a dlc w1) s = .next (rejected s 2))

/-- 42_frame.md R183 to R186: the four classification reads. -/
def Obligations.FrmClassificationReadsTheFlags : Prop :=
  runsAs 0x42 0xFF1FFFFF 0 (fun h _ _ => .frmIsExt (fieldA h)) ∧
  runsAs 0x43 0xFF1FFFFF 0 (fun h _ _ => .frmIsStd (fieldA h)) ∧
  runsAs 0x44 0xFF1FFFFF 0 (fun h _ _ => .frmIsRem (fieldA h)) ∧
  runsAs 0x45 0xFF1FFFFF 0 (fun h _ _ => .frmIsData (fieldA h)) ∧
  (∀ w r, idRegOfIdW w = some r → r.getLsbD 1 = false ∧ (r ||| 2).getLsbD 1 = true) ∧
  ∀ (a : RegIdx) (s : State),
    (∀ fr, holds s.fr a fr →
      exec (.frmIsExt a) s = .next (ok { s with res0 := if fr.id.getLsbD 2 then 0 else 1 }) ∧
      exec (.frmIsStd a) s = .next (ok { s with res0 := if fr.id.getLsbD 2 then 1 else 0 }) ∧
      exec (.frmIsRem a) s = .next (ok { s with res0 := if fr.id.getLsbD 1 then 1 else 0 }) ∧
      exec (.frmIsData a) s = .next (ok { s with res0 := if fr.id.getLsbD 1 then 0 else 1 })) ∧
    (¬ inFile s.fr a → ∀ i ∈ [Instr.frmIsExt a, .frmIsStd a, .frmIsRem a, .frmIsData a],
      exec i s = .next (faulted s 9)) ∧
    (isUnwritten s.fr a → ∀ i ∈ [Instr.frmIsExt a, .frmIsStd a, .frmIsRem a, .frmIsData a],
      exec i s = .next (faulted s 10))

/-- 42_frame.md R187, R188: the identifier, which is the IDW the frame was built from, and the DLC, at most 7 for a remote frame. -/
def Obligations.FrmIdAndDlcAreRead : Prop :=
  runsAs 0x46 0xFF1FFFFF 0 (fun h _ _ => .frmId (fieldA h)) ∧
  runsAs 0x47 0xFF1FFFFF 0 (fun h _ _ => .frmDlc (fieldA h)) ∧
  (∀ (a : RegIdx) (s : State),
    (∀ fr, holds s.fr a fr →
      exec (.frmId a) s = .next (ok { s with
        res0 := if fr.id.getLsbD 2 then (fr.id.extractLsb' 21 11).zeroExtend 32
        else 0x80000000 ||| (fr.id.extractLsb' 3 29).zeroExtend 32 }) ∧
      exec (.frmDlc a) s = .next (ok { s with res0 := BitVec.ofNat 32 fr.data.len.val })) ∧
    (¬ inFile s.fr a → exec (.frmId a) s = .next (faulted s 9) ∧ exec (.frmDlc a) s = .next (faulted s 9)) ∧
    (isUnwritten s.fr a → exec (.frmId a) s = .next (faulted s 10) ∧ exec (.frmDlc a) s = .next (faulted s 10))) ∧
  (∀ (a : RegIdx) (s : State) (w : Word) (r : IdReg) (d : Data), idRegOfIdW w = some r →
    (holds s.fr a ⟨r, d⟩ → exec (.frmId a) s = .next (ok { s with res0 := w })) ∧
    (holds s.fr a ⟨r ||| 2, d⟩ → exec (.frmId a) s = .next (ok { s with res0 := w }))) ∧
  (∀ (a : RegIdx) (s t : State) (fr : Frame), invariant s = true → holds s.fr a fr → fr.id.getLsbD 1 = true →
    exec (.frmDlc a) s = .next t → t.res0.toNat ≤ 7)

/-- 42_frame.md R189. -/
def Obligations.FrmDataCopiesADataFramesPayload : Prop :=
  runsAs 0x48 0xFF03FFFF 0 (fun h _ _ => .frmData (fieldA h) (fieldB h)) ∧
  ∀ (a b : RegIdx) (s : State),
    (∀ fr, inFile s.dr a → holds s.fr b fr → fr.id.getLsbD 1 = false →
      exec (.frmData a b) s = .next (ok { s with dr := s.dr.set a.toNat (some fr.data), res0 := 1 })) ∧
    (∀ fr, inFile s.dr a → holds s.fr b fr → fr.id.getLsbD 1 = true →
      exec (.frmData a b) s = .next (ok { s with res0 := 0 })) ∧
    (¬ inFile s.dr a ∨ ¬ inFile s.fr b → exec (.frmData a b) s = .next (faulted s 9)) ∧
    (inFile s.dr a → isUnwritten s.fr b → exec (.frmData a b) s = .next (faulted s 10))

/-- 42_frame.md R190. -/
def Obligations.FrmPrioCopiesTheKey : Prop :=
  runsAs 0x49 0xFF03FFFF 0 (fun h _ _ => .frmPrio (fieldA h) (fieldB h)) ∧
  ∀ (a b : RegIdx) (s : State),
    (∀ fr, inFile s.pr a → holds s.fr b fr →
      exec (.frmPrio a b) s = .next (ok { s with pr := s.pr.set a.toNat (some fr.id) })) ∧
    (¬ inFile s.pr a ∨ ¬ inFile s.fr b → exec (.frmPrio a b) s = .next (faulted s 9)) ∧
    (inFile s.pr a → isUnwritten s.fr b → exec (.frmPrio a b) s = .next (faulted s 10))

/-! ### The priority commands -/

/-- 43_priority.md R221. -/
def Obligations.PriCmpOrdersTwoKeys : Prop :=
  runsAs 0x50 0xFF03FFFF 0 (fun h _ _ => .priCmp (fieldA h) (fieldB h)) ∧
  ∀ (a b : RegIdx) (s : State),
    (∀ x y, holds s.pr a x → holds s.pr b y →
      exec (.priCmp a b) s =
        .next (ok { s with res0 := if x.toNat < y.toNat then 1 else if x.toNat = y.toNat then 0 else 2 })) ∧
    (¬ inFile s.pr a ∨ ¬ inFile s.pr b → exec (.priCmp a b) s = .next (faulted s 9)) ∧
    (inFile s.pr a → inFile s.pr b → isUnwritten s.pr a ∨ isUnwritten s.pr b →
      exec (.priCmp a b) s = .next (faulted s 10))

/-- 43_priority.md R222: the winner's key is Less than or Equal to every selected key, and the lowest index wins a tie. -/
def Obligations.ArbSelPicksTheLeastKey : Prop :=
  runsAs 0x51 0xFFFFFF00 0 (fun h _ _ => .arbSel (h.extractLsb' 0 8)) ∧
  ∀ (mask : BitVec 8) (s : State),
    (mask = 0 → exec (.arbSel mask) s = .next (ok { s with res0 := 0 })) ∧
    (mask ≠ 0 → (∀ i, mask.getLsbD i = true → ∃ p, s.pr[i]? = some (some p)) → ∃ w p,
      mask.getLsbD w = true ∧ s.pr[w]? = some (some p) ∧
      exec (.arbSel mask) s = .next (ok { s with res0 := 0x100 ||| BitVec.ofNat 32 w }) ∧
      ∀ j q, mask.getLsbD j = true → s.pr[j]? = some (some q) → p.toNat ≤ q.toNat ∧ (j < w → p.toNat < q.toNat)) ∧
    ((∃ i, mask.getLsbD i = true ∧ s.pr.length ≤ i) → exec (.arbSel mask) s = .next (faulted s 9)) ∧
    ((∀ i, mask.getLsbD i = true → i < s.pr.length) → (∃ i, mask.getLsbD i = true ∧ s.pr[i]? = some none) →
      exec (.arbSel mask) s = .next (faulted s 10))

/-- 43_priority.md R223: repeated arbitration lists the selected registers in ascending key order, equal keys in ascending index
order. -/
def Obligations.RepeatedArbitrationSorts : Prop :=
  ∀ (mask : BitVec 8) (s : State), (∀ i, mask.getLsbD i = true → ∃ p, s.pr[i]? = some (some p)) →
    (∀ i, i ∈ arbSort 8 mask s ↔ mask.getLsbD i = true) ∧
    (arbSort 8 mask s).Pairwise fun i j => ∀ p q, s.pr[i]? = some (some p) → s.pr[j]? = some (some q) →
      p.toNat < q.toNat ∨ (p.toNat = q.toNat ∧ i < j)

/-! ### Errors and STATUS -/

/-- 60_exceptions.md R249: exactly one code is reported, the first that applies: IllegalCommand (no command decodes), then the
order of `reportedCode`. -/
def Obligations.ErrorsAreReportedInPriorityOrder : Prop :=
  (∀ (s : State) (ws rest : List Word) (acts : List HostAction),
    s.host = .issue ws :: acts → decode ws = .illegal rest → ∃ t, step s = .next t ∧ codeOf t.status = 8) ∧
  (∀ (i : Instr) (s : State), ∃ t, exec i s = .next t ∧ codeOf t.status = reportedCode s i)

/-- 60_exceptions.md R250: a command that ends with a non-zero code changes nothing but STATUS, and sets FAULT for codes 8 to 11. -/
def Obligations.ErrorsChangeOnlyStatus : Prop :=
  (∀ (i : Instr) (s : State), ∃ t, exec i s = .next t ∧
    (codeOf t.status ≠ 0 →
      t = { s with status := t.status } ∧ (8 ≤ (codeOf t.status).toNat → faultOf t.status = true) ∧
      ((codeOf t.status).toNat < 8 → faultOf t.status = faultOf s.status))) ∧
  (∀ (s : State) (ws rest : List Word) (acts : List HostAction),
    s.host = .issue ws :: acts → decode ws = .illegal rest →
    step s = .next { s with host := afterPacket rest acts, status := 0x108 })

/-- 60_exceptions.md R251: a fault sets FAULT, nothing but reset clears it, and a rejection or a completion leaves it. -/
def Obligations.FaultFlagIsSticky : Prop :=
  ∀ (s t : State), step s = .next t →
    ((∀ ws acts, s.host ≠ .reset ws :: acts) → faultOf s.status = true → faultOf t.status = true) ∧
    ((∀ ws acts, s.host ≠ .reset ws :: acts) → faultOf s.status = false →
      (faultOf t.status = true ↔ presentsPacket s = true ∧ 8 ≤ (codeOf t.status).toNat)) ∧
    ((∃ ws acts, s.host = .reset ws :: acts) → faultOf t.status = false)

/-- 60_exceptions.md R240: the codes, and what raises each: a header raises IllegalCommand, a command all others. -/
def Obligations.StatusCodesComeFromTheirCommands : Prop :=
  (∀ (s : State) (ws rest : List Word) (acts : List HostAction),
    s.host = .issue ws :: acts → decode ws = .illegal rest → ∃ t, step s = .next t ∧ codeOf t.status = 8) ∧
  ∀ (i : Instr) (s t : State), exec i s = .next t →
    codeOf t.status ∈ [0, 1, 2, 3, 9, 10, 11] ∧ t.status &&& 0xFFFFFEF0 = 0 ∧
    (codeOf t.status ≠ 0 → t.res0 = s.res0 ∧ t.res1 = s.res1 ∧ t.res2 = s.res2) ∧
    (codeOf t.status = 1 → i.mnemonic = .dataNew) ∧
    (codeOf t.status = 2 → i.mnemonic = .frmNewr) ∧
    (codeOf t.status = 3 → i.mnemonic ∈ [.idStd, .idExt, .frmNewd, .frmNewr]) ∧
    (codeOf t.status = 9 → i.wellFormed s.sizes = false) ∧
    (codeOf t.status = 10 → readsUnwritten s i = true) ∧
    (codeOf t.status = 11 → i.mnemonic ∈ [.dataRdb, .dataWrb])

/-- 60_exceptions.md R246: IndexRange is raised exactly when a named register does not exist, never with eight registers in each
file. -/
def Obligations.IndexRangeMeansNoSuchRegister : Prop :=
  ∀ (i : Instr) (s : State), ∃ t, exec i s = .next t ∧
    (codeOf t.status = 9 ↔ i.wellFormed s.sizes = false) ∧
    (s.sizes = ⟨8, 8, 8, 8⟩ → codeOf t.status ≠ 9)

/-- 60_exceptions.md R241, in the reading `claimStep` of it (notes/assumptions/1.md): a rejection is a normal step, a fault code ends
the run, and until then the run is the hardware's and FAULT stays clear. -/
def Obligations.ClaimedRunsEndAtTheFirstFault : Prop :=
  ∀ s : State,
    (∀ t, step s = .next t → presentsPacket s = true → 8 ≤ (codeOf t.status).toNat →
      ∃ f, faultOfCode (codeOf t.status) = some f ∧ claimStep s = .fault f) ∧
    (∀ t, step s = .next t → presentsPacket s = true → (codeOf t.status).toNat < 8 → claimStep s = .next t) ∧
    (∀ t, claimStep s = .next t → step s = .next t ∧ (noFault s = true → noFault t = true))

/-! ### Frames, independence and isolation -/

/-- 20_memory.md R56: the read-only commands change no register of any file, and repeating one changes nothing at all. -/
def Obligations.ReadOnlyCommandsRepeat : Prop :=
  (∀ (i : Instr) (s : State), readOnly i = true → ∃ t, exec i s = .next t ∧
    t.ir = s.ir ∧ t.dr = s.dr ∧ t.fr = s.fr ∧ t.pr = s.pr ∧ t.host = s.host ∧ exec i t = .next t) ∧
  (∀ (s : State) (p : OutPort) (acts : List HostAction),
    step { s with host := .read p :: acts } = .next { s with host := acts })

/-- 10_state.md R32 to R35, R38: the frame of every command. It leaves every register but its destination, the file sizes, the
host's actions and every result register it does not produce. -/
def Obligations.CommandsKeepTheirFrame : Prop :=
  ∀ (i : Instr) (s t : State), exec i s = .next t →
    sameRegistersBut (destination i) s t ∧ t.sizes = s.sizes ∧ t.host = s.host ∧
    (resultCount i = 0 → t.res0 = s.res0) ∧ (resultCount i ≠ 3 → t.res1 = s.res1 ∧ t.res2 = s.res2)

/-- 20_memory.md R63: a later write to the source of a copy does not change the copy. -/
def Obligations.CopiesAreIndependentOfTheirSource : Prop :=
  (∀ (f d : RegIdx) (w : Word) (idx : BitVec 3) (byte : Byte) (s t : State) (fr : Frame) (old : Data),
    exec (.frmNewd f d w) s = .next t → holds t.fr f fr → holds t.dr d old → idx.toNat < old.len.val →
    ∃ u new, exec (.dataWrb d idx byte) t = .next u ∧ holds u.fr f fr ∧ holds u.dr d new ∧
      new.buf[idx.toFin] = byte) ∧
  (∀ (p f d : RegIdx) (w : Word) (s t : State) (key : FramePriority),
    exec (.frmPrio p f) s = .next t → holds t.pr p key → ∃ u, exec (.frmNewd f d w) t = .next u ∧ holds u.pr p key ∧
      ∀ r x, inFile t.fr f → holds t.dr d x → idRegOfIdW w = some r → holds u.fr f ⟨r, x⟩)

/-- 10_state.md R28, R41: lanes no command exposes never reach an output, now or later: states that differ in them alone step alike
to states that differ in them alone. -/
def Obligations.HiddenLanesNeverReachTheOutputs : Prop :=
  ∀ s t : State, sameButHidden s t →
    (∃ s' t', step s = .next s' ∧ step t = .next t' ∧ sameButHidden s' t') ∨
    (step s = .refused .truncatedPacket ∧ step t = .refused .truncatedPacket)

/-- 10_state.md R30, R35: the keys of the priority file reach the outputs and the other files by their order alone. -/
def Obligations.KeysAreObservableOnlyByOrder : Prop :=
  ∀ (i : Instr) (s : State) (q : List (Option FramePriority)), sameOrder s.pr q →
    ∃ t u, exec i s = .next t ∧ exec i { s with pr := q } = .next u ∧ outputs t = outputs u ∧
      t.ir = u.ir ∧ t.dr = u.dr ∧ t.fr = u.fr ∧ t.host = u.host

/-- 41_data.md R161: the laws (a), (b) and (c). -/
def Obligations.DataLaws : Prop :=
  (∀ (a : RegIdx) (len : BitVec 8) (w1 w2 : Word) (s : State), inFile s.dr a → ∃ t,
    exec (.dataNew a len w1 w2) s = .next t ∧
    (∀ n : Fin 9, n.val = len.toNat → holds t.dr a (payload n w1 w2)) ∧
    (9 ≤ len.toNat → codeOf t.status = 1)) ∧
  (∀ (a : RegIdx) (w1 w2 : Word) (s : State), inFile s.dr a →
    ∀ p ∈ [((0 : Fin 9), Instr.dataFrom0 a), (1, .dataFrom1 a w1), (2, .dataFrom2 a w1), (3, .dataFrom3 a w1),
      (4, .dataFrom4 a w1), (5, .dataFrom5 a w1 w2), (6, .dataFrom6 a w1 w2), (7, .dataFrom7 a w1 w2),
      (8, .dataFrom8 a w1 w2)],
      ∃ t, exec p.2 s = .next t ∧ ∃ d, holds t.dr a d ∧ d.len = p.1 ∧
        ∀ i : Fin 8, i.val < p.1.val → d.buf[i] = wordLane w1 w2 i.val) ∧
  (∀ (i : Instr) (s t : State) (k : RegIdx) (d e : Data), exec i s = .next t → holds s.dr k d → holds t.dr k e →
    d.len ≠ e.len → destination i = .inDr k ∧ i.mnemonic ≠ .dataWrb)

/-- 42_frame.md R192: the laws (a) and (b). -/
def Obligations.FrameLaws : Prop :=
  (∀ (f a : RegIdx) (dlc : BitVec 8) (w : Word) (s : State), inFile s.fr f → inFile s.dr a → idRegOfIdW w ≠ none →
    (dlc.toNat < 8 → ∃ t r q x, exec (.frmNewr f dlc w) s = .next t ∧ codeOf t.status = 0 ∧
      exec (.frmIsRem f) t = .next r ∧ r.res0 = 1 ∧ exec (.frmDlc f) t = .next q ∧ q.res0.toNat = dlc.toNat ∧
      exec (.frmData a f) t = .next x ∧ x.res0 = 0 ∧ x.dr = t.dr) ∧
    (8 ≤ dlc.toNat → exec (.frmNewr f dlc w) s = .next (rejected s 2))) ∧
  (∀ (f d a : RegIdx) (w : Word) (s : State) (x : Data), inFile s.fr f → inFile s.dr a → holds s.dr d x →
    idRegOfIdW w ≠ none → ∃ t r q y z, exec (.frmNewd f d w) s = .next t ∧
      exec (.frmIsData f) t = .next r ∧ r.res0 = 1 ∧ exec (.frmDlc f) t = .next q ∧ q.res0.toNat = x.len.val ∧
      exec (.frmData a f) t = .next y ∧ y.res0 = 1 ∧ holds y.dr a z ∧ eqData z x = true)

/-! ### Invariant and reset -/

/-- 10_state.md R25, R28, R29, R30, R37; 42_frame.md R191; 00_scope.md R7: every step keeps the invariant of the block. -/
def Obligations.StepKeepsTheInvariant : Prop :=
  ∀ s t : State, invariant s = true → step s = .next t → invariant t = true

/-- 10_state.md R44: the reset state meets the invariant. -/
def Obligations.ResetMeetsTheInvariant : Prop :=
  invariant State.reset = true

/-- 10_state.md R44: the value of every piece of state after reset, for every choice of the file sizes. The
sizes as list lengths, with the reference value 8 of 00_scope.md R7 in `State.reset`, and its empty list of host actions are the
model's choice (notes/assumptions/2.md, 4.md). -/
def Obligations.ResetStateHoldsTheSpecsValues : Prop :=
  (∀ (z : Sizes) (host : List HostAction), let s := State.resetOf z host
    (∀ i : Nat, (i < z.nir → s.ir[i]? = some none) ∧ (i < z.ndr → s.dr[i]? = some none) ∧
      (i < z.nfr → s.fr[i]? = some none) ∧ (i < z.npr → s.pr[i]? = some none)) ∧
    s.sizes = z ∧ s.status = 0 ∧ s.res0 = 0 ∧ s.res1 = 0 ∧ s.res2 = 0) ∧
  State.reset = State.resetOf ⟨8, 8, 8, 8⟩ []

/-- 70_reset_and_hazards.md R270: reset takes the reset state; a packet presented under RST is not executed; and no other step
clears FAULT or returns a written register to `⊥`. That a reset is one host action is the model's choice
(notes/assumptions/6.md). -/
def Obligations.ResetAloneUnwritesRegisters : Prop :=
  (∀ (s : State) (ws : List Word) (acts : List HostAction),
    step { s with host := .reset ws :: acts } = .next (State.resetOf s.sizes acts)) ∧
  (∀ s t : State, (∀ ws acts, s.host ≠ .reset ws :: acts) → step s = .next t →
    (faultOf s.status = true → faultOf t.status = true) ∧
    ∀ k : RegIdx, (∀ v, holds s.ir k v → ∃ w, holds t.ir k w) ∧ (∀ v, holds s.dr k v → ∃ w, holds t.dr k w) ∧
      (∀ v, holds s.fr k v → ∃ w, holds t.fr k w) ∧ (∀ v, holds s.pr k v → ∃ w, holds t.pr k w))
end

