-- ==== Sys2Proof/Laws/Decode.lean ====
section
/-!
SUPPORT. The fields of a header, the fixed bits as a header, and what the opcode map selects.
-/

namespace Sys2Proof

theorem mkHeader_getLsbD (op : BitVec 8) (a b : RegIdx) (imm : BitVec 18) (i : Nat) :
    (mkHeader op a b imm).getLsbD i =
      if i < 18 then imm.getLsbD i
      else if i < 21 then b.getLsbD (i - 18)
      else if i < 24 then a.getLsbD (i - 21)
      else op.getLsbD (i - 24) := by
  simp only [mkHeader, BitVec.getLsbD_append]
  split_ifs <;> first | omega | rfl

@[simp] theorem headerOp_mkHeader (op : BitVec 8) (a b : RegIdx) (imm : BitVec 18) :
    headerOp (mkHeader op a b imm) = op := by
  refine BitVec.eq_of_getLsbD_eq fun i hi => ?_
  simp [headerOp, mkHeader_getLsbD, hi, show ¬ (24 + i < 18) by omega, show ¬ (24 + i < 21) by omega]

@[simp] theorem headerA_mkHeader (op : BitVec 8) (a b : RegIdx) (imm : BitVec 18) :
    headerA (mkHeader op a b imm) = a := by
  refine BitVec.eq_of_getLsbD_eq fun i hi => ?_
  simp [headerA, mkHeader_getLsbD, hi, show ¬ (21 + i < 18) by omega, show 21 + i < 24 by omega]

@[simp] theorem headerB_mkHeader (op : BitVec 8) (a b : RegIdx) (imm : BitVec 18) :
    headerB (mkHeader op a b imm) = b := by
  refine BitVec.eq_of_getLsbD_eq fun i hi => ?_
  simp [headerB, mkHeader_getLsbD, hi, show 18 + i < 21 by omega]

/-- The low IMM bits of a header. -/
theorem extract_imm_mkHeader (op : BitVec 8) (a b : RegIdx) (imm : BitVec 18) (lo n : Nat) (h : lo + n ≤ 18) :
    (mkHeader op a b imm).extractLsb' lo n = imm.extractLsb' lo n := by
  refine BitVec.eq_of_getLsbD_eq fun i hi => ?_
  simp [mkHeader_getLsbD, hi, show lo + i < 18 by omega]

/-- Masking a header masks its fields. -/
theorem mkHeader_and (op op' : BitVec 8) (a a' b b' : RegIdx) (imm imm' : BitVec 18) :
    mkHeader op a b imm &&& mkHeader op' a' b' imm' = mkHeader (op &&& op') (a &&& a') (b &&& b') (imm &&& imm') := by
  refine BitVec.eq_of_getLsbD_eq fun i _ => ?_
  simp only [mkHeader_getLsbD, BitVec.getLsbD_and]
  split_ifs <;> rfl

/-- A header is its fields. -/
theorem mkHeader_fields (h : Word) : mkHeader (headerOp h) (headerA h) (headerB h) (h.extractLsb' 0 18) = h := by
  refine BitVec.eq_of_getLsbD_eq fun i hi => ?_
  simp only [mkHeader_getLsbD, headerOp, headerA, headerB, BitVec.getLsbD_extractLsb']
  split_ifs with h1 h2 h3
  · simp [h1]
  · simp [show i - 18 < 3 by omega, show 18 + (i - 18) = i by omega]
  · simp [show i - 21 < 3 by omega, show 21 + (i - 21) = i by omega]
  · simp [show i - 24 < 8 by omega, show 24 + (i - 24) = i by omega]

/-- Two headers are equal exactly when their fields are. -/
theorem mkHeader_inj {op op' : BitVec 8} {a a' b b' : RegIdx} {imm imm' : BitVec 18} :
    mkHeader op a b imm = mkHeader op' a' b' imm' ↔ op = op' ∧ a = a' ∧ b = b' ∧ imm = imm' := by
  constructor
  · intro h
    refine ⟨?_, ?_, ?_, ?_⟩
    · simpa using congrArg headerOp h
    · simpa using congrArg headerA h
    · simpa using congrArg headerB h
    · have := congrArg (fun w : Word => w.extractLsb' 0 18) h
      simpa [extract_imm_mkHeader] using this
  · rintro ⟨rfl, rfl, rfl, rfl⟩; rfl

/-- The map selects every row by its own opcode. -/
theorem rowOf_opcode (m : Mnemonic) : rowOf (opcode m) = some m := by
  cases m <;> rfl

/-- A row the map selects has that opcode. -/
theorem opcode_of_rowOf {op : BitVec 8} {m : Mnemonic} (h : rowOf op = some m) : opcode m = op := by
  simpa using List.find?_some h

end Sys2Proof
end

