-- ==== Sys2Proof/Laws/State.lean ====
section
/-!
SUPPORT. The fields of the state after each named update, one lemma each, so that no proof unfolds a record update.
-/

namespace Sys2Proof.Machine

@[simp] theorem State.writeIr_ir (s : State) (i : RegIdx) (v : IdReg) : (s.writeIr i v).ir = writeReg s.ir i.toNat v := rfl
@[simp] theorem State.writeIr_dr (s : State) (i : RegIdx) (v : IdReg) : (s.writeIr i v).dr = s.dr := rfl
@[simp] theorem State.writeIr_fr (s : State) (i : RegIdx) (v : IdReg) : (s.writeIr i v).fr = s.fr := rfl
@[simp] theorem State.writeIr_pr (s : State) (i : RegIdx) (v : IdReg) : (s.writeIr i v).pr = s.pr := rfl
@[simp] theorem State.writeIr_status (s : State) (i : RegIdx) (v : IdReg) : (s.writeIr i v).status = s.status := rfl
@[simp] theorem State.writeIr_res0 (s : State) (i : RegIdx) (v : IdReg) : (s.writeIr i v).res0 = s.res0 := rfl
@[simp] theorem State.writeIr_res1 (s : State) (i : RegIdx) (v : IdReg) : (s.writeIr i v).res1 = s.res1 := rfl
@[simp] theorem State.writeIr_res2 (s : State) (i : RegIdx) (v : IdReg) : (s.writeIr i v).res2 = s.res2 := rfl
@[simp] theorem State.writeIr_host (s : State) (i : RegIdx) (v : IdReg) : (s.writeIr i v).host = s.host := rfl

@[simp] theorem State.writeDr_ir (s : State) (i : RegIdx) (v : Data) : (s.writeDr i v).ir = s.ir := rfl
@[simp] theorem State.writeDr_dr (s : State) (i : RegIdx) (v : Data) : (s.writeDr i v).dr = writeReg s.dr i.toNat v := rfl
@[simp] theorem State.writeDr_fr (s : State) (i : RegIdx) (v : Data) : (s.writeDr i v).fr = s.fr := rfl
@[simp] theorem State.writeDr_pr (s : State) (i : RegIdx) (v : Data) : (s.writeDr i v).pr = s.pr := rfl
@[simp] theorem State.writeDr_status (s : State) (i : RegIdx) (v : Data) : (s.writeDr i v).status = s.status := rfl
@[simp] theorem State.writeDr_res0 (s : State) (i : RegIdx) (v : Data) : (s.writeDr i v).res0 = s.res0 := rfl
@[simp] theorem State.writeDr_res1 (s : State) (i : RegIdx) (v : Data) : (s.writeDr i v).res1 = s.res1 := rfl
@[simp] theorem State.writeDr_res2 (s : State) (i : RegIdx) (v : Data) : (s.writeDr i v).res2 = s.res2 := rfl
@[simp] theorem State.writeDr_host (s : State) (i : RegIdx) (v : Data) : (s.writeDr i v).host = s.host := rfl

@[simp] theorem State.writeFr_ir (s : State) (i : RegIdx) (v : Frame) : (s.writeFr i v).ir = s.ir := rfl
@[simp] theorem State.writeFr_dr (s : State) (i : RegIdx) (v : Frame) : (s.writeFr i v).dr = s.dr := rfl
@[simp] theorem State.writeFr_fr (s : State) (i : RegIdx) (v : Frame) : (s.writeFr i v).fr = writeReg s.fr i.toNat v := rfl
@[simp] theorem State.writeFr_pr (s : State) (i : RegIdx) (v : Frame) : (s.writeFr i v).pr = s.pr := rfl
@[simp] theorem State.writeFr_status (s : State) (i : RegIdx) (v : Frame) : (s.writeFr i v).status = s.status := rfl
@[simp] theorem State.writeFr_res0 (s : State) (i : RegIdx) (v : Frame) : (s.writeFr i v).res0 = s.res0 := rfl
@[simp] theorem State.writeFr_res1 (s : State) (i : RegIdx) (v : Frame) : (s.writeFr i v).res1 = s.res1 := rfl
@[simp] theorem State.writeFr_res2 (s : State) (i : RegIdx) (v : Frame) : (s.writeFr i v).res2 = s.res2 := rfl
@[simp] theorem State.writeFr_host (s : State) (i : RegIdx) (v : Frame) : (s.writeFr i v).host = s.host := rfl

@[simp] theorem State.writePr_ir (s : State) (i : RegIdx) (v : FramePriority) : (s.writePr i v).ir = s.ir := rfl
@[simp] theorem State.writePr_dr (s : State) (i : RegIdx) (v : FramePriority) : (s.writePr i v).dr = s.dr := rfl
@[simp] theorem State.writePr_fr (s : State) (i : RegIdx) (v : FramePriority) : (s.writePr i v).fr = s.fr := rfl
@[simp] theorem State.writePr_pr (s : State) (i : RegIdx) (v : FramePriority) : (s.writePr i v).pr = writeReg s.pr i.toNat v := rfl
@[simp] theorem State.writePr_status (s : State) (i : RegIdx) (v : FramePriority) : (s.writePr i v).status = s.status := rfl
@[simp] theorem State.writePr_res0 (s : State) (i : RegIdx) (v : FramePriority) : (s.writePr i v).res0 = s.res0 := rfl
@[simp] theorem State.writePr_res1 (s : State) (i : RegIdx) (v : FramePriority) : (s.writePr i v).res1 = s.res1 := rfl
@[simp] theorem State.writePr_res2 (s : State) (i : RegIdx) (v : FramePriority) : (s.writePr i v).res2 = s.res2 := rfl
@[simp] theorem State.writePr_host (s : State) (i : RegIdx) (v : FramePriority) : (s.writePr i v).host = s.host := rfl

@[simp] theorem State.setRes0_ir (s : State) (w : Word) : (s.setRes0 w).ir = s.ir := rfl
@[simp] theorem State.setRes0_dr (s : State) (w : Word) : (s.setRes0 w).dr = s.dr := rfl
@[simp] theorem State.setRes0_fr (s : State) (w : Word) : (s.setRes0 w).fr = s.fr := rfl
@[simp] theorem State.setRes0_pr (s : State) (w : Word) : (s.setRes0 w).pr = s.pr := rfl
@[simp] theorem State.setRes0_status (s : State) (w : Word) : (s.setRes0 w).status = s.status := rfl
@[simp] theorem State.setRes0_res0 (s : State) (w : Word) : (s.setRes0 w).res0 = w := rfl
@[simp] theorem State.setRes0_res1 (s : State) (w : Word) : (s.setRes0 w).res1 = s.res1 := rfl
@[simp] theorem State.setRes0_res2 (s : State) (w : Word) : (s.setRes0 w).res2 = s.res2 := rfl
@[simp] theorem State.setRes0_host (s : State) (w : Word) : (s.setRes0 w).host = s.host := rfl

@[simp] theorem State.setRes_ir (s : State) (w0 w1 w2 : Word) : (s.setRes w0 w1 w2).ir = s.ir := rfl
@[simp] theorem State.setRes_dr (s : State) (w0 w1 w2 : Word) : (s.setRes w0 w1 w2).dr = s.dr := rfl
@[simp] theorem State.setRes_fr (s : State) (w0 w1 w2 : Word) : (s.setRes w0 w1 w2).fr = s.fr := rfl
@[simp] theorem State.setRes_pr (s : State) (w0 w1 w2 : Word) : (s.setRes w0 w1 w2).pr = s.pr := rfl
@[simp] theorem State.setRes_status (s : State) (w0 w1 w2 : Word) : (s.setRes w0 w1 w2).status = s.status := rfl
@[simp] theorem State.setRes_res0 (s : State) (w0 w1 w2 : Word) : (s.setRes w0 w1 w2).res0 = w0 := rfl
@[simp] theorem State.setRes_res1 (s : State) (w0 w1 w2 : Word) : (s.setRes w0 w1 w2).res1 = w1 := rfl
@[simp] theorem State.setRes_res2 (s : State) (w0 w1 w2 : Word) : (s.setRes w0 w1 w2).res2 = w2 := rfl
@[simp] theorem State.setRes_host (s : State) (w0 w1 w2 : Word) : (s.setRes w0 w1 w2).host = s.host := rfl

@[simp] theorem State.complete_ir (s : State) : (s.complete).ir = s.ir := rfl
@[simp] theorem State.complete_dr (s : State) : (s.complete).dr = s.dr := rfl
@[simp] theorem State.complete_fr (s : State) : (s.complete).fr = s.fr := rfl
@[simp] theorem State.complete_pr (s : State) : (s.complete).pr = s.pr := rfl
@[simp] theorem State.complete_status (s : State) : (s.complete).status = statusAfterOk s.status := rfl
@[simp] theorem State.complete_res0 (s : State) : (s.complete).res0 = s.res0 := rfl
@[simp] theorem State.complete_res1 (s : State) : (s.complete).res1 = s.res1 := rfl
@[simp] theorem State.complete_res2 (s : State) : (s.complete).res2 = s.res2 := rfl
@[simp] theorem State.complete_host (s : State) : (s.complete).host = s.host := rfl

@[simp] theorem State.raise_ir (s : State) (e : ErrorCode) : (s.raise e).ir = s.ir := rfl
@[simp] theorem State.raise_dr (s : State) (e : ErrorCode) : (s.raise e).dr = s.dr := rfl
@[simp] theorem State.raise_fr (s : State) (e : ErrorCode) : (s.raise e).fr = s.fr := rfl
@[simp] theorem State.raise_pr (s : State) (e : ErrorCode) : (s.raise e).pr = s.pr := rfl
@[simp] theorem State.raise_status (s : State) (e : ErrorCode) : (s.raise e).status = statusAfterError e s.status := rfl
@[simp] theorem State.raise_res0 (s : State) (e : ErrorCode) : (s.raise e).res0 = s.res0 := rfl
@[simp] theorem State.raise_res1 (s : State) (e : ErrorCode) : (s.raise e).res1 = s.res1 := rfl
@[simp] theorem State.raise_res2 (s : State) (e : ErrorCode) : (s.raise e).res2 = s.res2 := rfl
@[simp] theorem State.raise_host (s : State) (e : ErrorCode) : (s.raise e).host = s.host := rfl

@[simp] theorem State.takeReset_ir (s : State) : (s.takeReset).ir = List.replicate s.ir.length none := rfl
@[simp] theorem State.takeReset_dr (s : State) : (s.takeReset).dr = List.replicate s.dr.length none := rfl
@[simp] theorem State.takeReset_fr (s : State) : (s.takeReset).fr = List.replicate s.fr.length none := rfl
@[simp] theorem State.takeReset_pr (s : State) : (s.takeReset).pr = List.replicate s.pr.length none := rfl
@[simp] theorem State.takeReset_status (s : State) : (s.takeReset).status = 0 := rfl
@[simp] theorem State.takeReset_res0 (s : State) : (s.takeReset).res0 = 0 := rfl
@[simp] theorem State.takeReset_res1 (s : State) : (s.takeReset).res1 = 0 := rfl
@[simp] theorem State.takeReset_res2 (s : State) : (s.takeReset).res2 = 0 := rfl
@[simp] theorem State.takeReset_host (s : State) : (s.takeReset).host = s.host := rfl

end Sys2Proof.Machine
end

