-- ==== Sys2Proof/Laws/Ops.lean ====
section
/-!
SUPPORT. What each shared operation can do, said once: the checks and reads, the status word, how a command ends, and the shared
command shapes. Proofs cite these instead of unfolding the operations.
-/

namespace Sys2Proof.Machine

/-! ### Sequencing of checks -/

@[simp] theorem except_ok_bind {α β : Type} (x : α) (f : α → Except ErrorCode β) :
    (Except.ok x >>= f) = f x := rfl

@[simp] theorem except_error_bind {α β : Type} (e : ErrorCode) (f : α → Except ErrorCode β) :
    ((Except.error e : Except ErrorCode α) >>= f) = .error e := rfl

@[simp] theorem except_pure {α : Type} (x : α) : (pure x : Except ErrorCode α) = .ok x := rfl

@[simp] theorem except_throw {α : Type} (e : ErrorCode) : (throw e : Except ErrorCode α) = .error e := rfl

/-- A sequence of checks succeeds exactly when its first part does and then the rest. -/
theorem except_bind_eq_ok {α β : Type} {x : Except ErrorCode α} {f : α → Except ErrorCode β} {y : β} :
    (x >>= f) = .ok y ↔ ∃ v, x = .ok v ∧ f v = .ok y := by
  cases x <;> simp

/-! ### Checks and reads -/

theorem checkIndex_of_lt {α : Type} {file : List (Option α)} {i : Nat} (h : i < file.length) :
    checkIndex file i = .ok () := if_pos h

theorem checkIndex_of_le {α : Type} {file : List (Option α)} {i : Nat} (h : file.length ≤ i) :
    checkIndex file i = .error .indexRange := if_neg (by omega)

theorem checkIndex_eq_ok {α : Type} {file : List (Option α)} {i : Nat} {u : Unit} :
    checkIndex file i = .ok u ↔ i < file.length := by
  unfold checkIndex; split <;> simp [*]

theorem readReg_of_some {α : Type} {file : List (Option α)} {i : Nat} {v : α} (h : file[i]? = some (some v)) :
    readReg file i = .ok v := by simp [readReg, h]

theorem readReg_of_none {α : Type} {file : List (Option α)} {i : Nat} (h : file[i]? = some none) :
    readReg file i = .error .unwritten := by simp [readReg, h]

theorem readReg_eq_ok {α : Type} {file : List (Option α)} {i : Nat} {v : α} :
    readReg file i = .ok v ↔ file[i]? = some (some v) := by
  unfold readReg; split <;> simp_all

/-- A register that holds a value exists. -/
theorem lt_of_getElem?_some {α : Type} {file : List α} {i : Nat} {o : α} (h : file[i]? = some o) : i < file.length :=
  (List.getElem?_eq_some_iff.mp h).1

/-- A register that exists holds `⊥` or a value. -/
theorem reg_cases {α : Type} {file : List (Option α)} {i : Nat} (h : i < file.length) :
    file[i]? = some none ∨ ∃ v, file[i]? = some (some v) := by
  rw [List.getElem?_eq_getElem h]
  cases file[i] <;> simp

@[simp] theorem writeReg_length {α : Type} (file : List (Option α)) (i : Nat) (v : α) :
    (writeReg file i v).length = file.length := List.length_set

theorem writeReg_same {α : Type} {file : List (Option α)} {i : Nat} (v : α) (h : i < file.length) :
    (writeReg file i v)[i]? = some (some v) := by simp [writeReg, h]

theorem writeReg_other {α : Type} (file : List (Option α)) {i j : Nat} (v : α) (h : i ≠ j) :
    (writeReg file i v)[j]? = file[j]? := by simp [writeReg, h]

/-- What a register holds after a write. -/
theorem mem_writeReg {α : Type} {file : List (Option α)} {i : Nat} {v : α} {o : Option α}
    (h : o ∈ writeReg file i v) : o = some v ∨ o ∈ file := (List.mem_or_eq_of_mem_set h).symm

/-! ### STATUS -/

/-- STATUS keeps FAULT alone after a command that completes. -/
theorem statusAfterOk_eq (st : Word) : statusAfterOk st = st &&& 0x100 := by
  refine BitVec.eq_of_getLsbD_eq fun i hi => ?_
  interval_cases i <;> simp [statusAfterOk, statusWord, statusFault]

/-- STATUS after a rejection: FAULT kept, CODE written. -/
theorem statusAfterError_rejection {e : ErrorCode} (st : Word) (h : e.isFault = false) :
    statusAfterError e st = (st &&& 0x100) ||| e.number.zeroExtend 32 := by
  refine BitVec.eq_of_getLsbD_eq fun i hi => ?_
  interval_cases i <;> simp [statusAfterError, statusWord, statusFault, h]

/-- STATUS after a fault: FAULT set, CODE written. -/
theorem statusAfterError_fault {e : ErrorCode} (st : Word) (h : e.isFault = true) :
    statusAfterError e st = 0x100 ||| e.number.zeroExtend 32 := by
  refine BitVec.eq_of_getLsbD_eq fun i hi => ?_
  interval_cases i <;> simp [statusAfterError, statusWord, statusFault, h]

/-! ### How a command ends -/

@[simp] theorem conclude_ok (s t : State) : conclude s (.ok t) = .next t.complete := rfl

@[simp] theorem conclude_error (s : State) (e : ErrorCode) : conclude s (.error e) = .next (s.raise e) := rfl

/-- A command ends with the state it computed or with an error that changes nothing but STATUS. -/
theorem conclude_cases {s t : State} {r : Except ErrorCode State} (h : conclude s r = .next t) :
    (∃ u, r = .ok u ∧ t = u.complete) ∨ ∃ e, r = .error e ∧ t = s.raise e := by
  cases r <;> simp_all [conclude]

/-- No command stops the block. -/
theorem conclude_next (s : State) (r : Except ErrorCode State) : ∃ t, conclude s r = .next t := by
  cases r <;> simp

/-! ### The shared command shapes -/

/-- A command that reads one register: IndexRange, Unwritten, or RES0 written. -/
theorem readToRes0_cases {α : Type} (file : List (Option α)) (a : RegIdx) (f : α → Word) (s : State) :
    (file.length ≤ a.toNat ∧ readToRes0 file a f s = .next (s.raise .indexRange)) ∨
    (file[a.toNat]? = some none ∧ readToRes0 file a f s = .next (s.raise .unwritten)) ∨
    ∃ v, file[a.toNat]? = some (some v) ∧ readToRes0 file a f s = .next (s.setRes0 (f v)).complete := by
  by_cases h : a.toNat < file.length
  · rcases reg_cases h with hr | ⟨v, hr⟩
    · exact .inr (.inl ⟨hr, by simp [readToRes0, checkIndex_of_lt h, readReg_of_none hr]⟩)
    · exact .inr (.inr ⟨v, hr, by simp [readToRes0, checkIndex_of_lt h, readReg_of_some hr]⟩)
  · exact .inl ⟨by omega, by simp [readToRes0, checkIndex_of_le (Nat.le_of_not_lt h)]⟩

/-- A command that reads two registers of one file: IndexRange, Unwritten, or RES0 written. -/
theorem readTwoToRes0_cases {α : Type} (file : List (Option α)) (a b : RegIdx) (f : α → α → Word) (s : State) :
    ((file.length ≤ a.toNat ∨ file.length ≤ b.toNat) ∧ readTwoToRes0 file a b f s = .next (s.raise .indexRange)) ∨
    (a.toNat < file.length ∧ b.toNat < file.length ∧ (file[a.toNat]? = some none ∨ file[b.toNat]? = some none) ∧
      readTwoToRes0 file a b f s = .next (s.raise .unwritten)) ∨
    ∃ v w, file[a.toNat]? = some (some v) ∧ file[b.toNat]? = some (some w) ∧
      readTwoToRes0 file a b f s = .next (s.setRes0 (f v w)).complete := by
  by_cases ha : a.toNat < file.length
  · by_cases hb : b.toNat < file.length
    · rcases reg_cases ha with ra | ⟨v, ra⟩
      · exact .inr (.inl ⟨ha, hb, .inl ra, by
          simp [readTwoToRes0, checkIndex_of_lt ha, checkIndex_of_lt hb, readReg_of_none ra]⟩)
      · rcases reg_cases hb with rb | ⟨w, rb⟩
        · exact .inr (.inl ⟨ha, hb, .inr rb, by
            simp [readTwoToRes0, checkIndex_of_lt ha, checkIndex_of_lt hb, readReg_of_some ra, readReg_of_none rb]⟩)
        · exact .inr (.inr ⟨v, w, ra, rb, by
            simp [readTwoToRes0, checkIndex_of_lt ha, checkIndex_of_lt hb, readReg_of_some ra, readReg_of_some rb]⟩)
    · exact .inl ⟨.inr (by omega), by
        simp [readTwoToRes0, checkIndex_of_lt ha, checkIndex_of_le (Nat.le_of_not_lt hb)]⟩
  · exact .inl ⟨.inl (by omega), by simp [readTwoToRes0, checkIndex_of_le (Nat.le_of_not_lt ha)]⟩

/-- The common rule of `DATA.FROMk`: IndexRange, or the Data written. -/
theorem dataFrom_cases (k : Fin 9) (a : RegIdx) (w1 w2 : Word) (s : State) :
    (s.dr.length ≤ a.toNat ∧ dataFrom k a w1 w2 s = .next (s.raise .indexRange)) ∨
    (a.toNat < s.dr.length ∧ dataFrom k a w1 w2 s = .next (s.writeDr a (mkData k (lanes w1 w2))).complete) := by
  by_cases h : a.toNat < s.dr.length
  · exact .inr ⟨h, by simp [dataFrom, checkIndex_of_lt h]⟩
  · exact .inl ⟨by omega, by simp [dataFrom, checkIndex_of_le (Nat.le_of_not_lt h)]⟩

/-! ### Payload lanes -/

@[simp] theorem mkData_len (n : Fin 9) (l : Vector Byte 8) : (mkData n l).len = n := rfl

/-- A built Data holds the given lanes below its length and zero from there on. -/
theorem mkData_lane (n : Fin 9) (l : Vector Byte 8) (i : Fin 8) :
    (mkData n l).buf[i] = if i.val < n.val then l[i] else 0 := by simp [mkData]

/-- The lanes of two operand words. -/
theorem lanes_lane (w1 w2 : Word) (i : Fin 8) :
    (lanes w1 w2)[i] = if i.val < 4 then laneOf w1 i.val else laneOf w2 i.val := by simp [lanes]

theorem checkView_eq_ok {d : Data} {idx : BitVec 3} {u : Unit} : checkView d idx = .ok u ↔ idx.toNat < d.len.val := by
  unfold checkView; split <;> simp [*]

theorem checkView_of_le {d : Data} {idx : BitVec 3} (h : d.len.val ≤ idx.toNat) :
    checkView d idx = .error .viewBounds := if_neg (by omega)

/-! ### The arbiter's loops -/

theorem checkIndices_eq_ok {α : Type} {file : List (Option α)} {is : List Nat} {u : Unit} :
    checkIndices file is = .ok u ↔ ∀ i ∈ is, i < file.length := by
  induction is with
  | nil => simp [checkIndices]
  | cons i is ih => simp [checkIndices, except_bind_eq_ok, checkIndex_eq_ok, ih]

/-- The arbiter's index check fails with IndexRange alone. -/
theorem checkIndices_error {α : Type} {file : List (Option α)} {is : List Nat} {e : ErrorCode}
    (h : checkIndices file is = .error e) : e = .indexRange := by
  induction is with
  | nil => simp [checkIndices] at h
  | cons i is ih =>
    by_cases hi : i < file.length
    · exact ih (by simpa [checkIndices, checkIndex_of_lt hi] using h)
    · simp [checkIndices, checkIndex_of_le (Nat.le_of_not_lt hi)] at h
      exact h.symm

/-- The arbiter's reads succeed exactly when every selected register holds the value listed for it. -/
theorem readRegs_eq_ok {α : Type} {file : List (Option α)} {is : List Nat} {cs : List (Nat × α)} :
    readRegs file is = .ok cs ↔ cs.map Prod.fst = is ∧ ∀ c ∈ cs, file[c.1]? = some (some c.2) := by
  induction is generalizing cs with
  | nil => cases cs <;> simp [readRegs]
  | cons i is ih =>
    cases cs with
    | nil => simp [readRegs, except_bind_eq_ok]
    | cons c cs =>
      simp only [readRegs, except_bind_eq_ok, readReg_eq_ok, except_pure, Except.ok.injEq, List.cons.injEq, ih,
        List.map_cons, List.mem_cons, forall_eq_or_imp]
      constructor
      · rintro ⟨v, hv, vs, ⟨hm, ha⟩, rfl, rfl⟩
        exact ⟨⟨rfl, hm⟩, hv, ha⟩
      · rintro ⟨⟨rfl, hm⟩, hv, ha⟩
        exact ⟨c.2, hv, cs, ⟨hm, ha⟩, rfl, rfl⟩

/-- The arbiter's reads fail with Unwritten alone. -/
theorem readRegs_error {α : Type} {file : List (Option α)} {is : List Nat} {e : ErrorCode}
    (h : readRegs file is = .error e) : e = .unwritten := by
  induction is with
  | nil => simp [readRegs] at h
  | cons i is ih =>
    cases hr : readReg file i with
    | error e' =>
      simp [readRegs, hr] at h
      unfold readReg at hr
      split at hr <;> simp_all
    | ok v =>
      cases hs : readRegs file is with
      | error e' =>
        obtain rfl : e' = e := by simpa [readRegs, hr, hs] using h
        exact ih hs
      | ok vs => simp [readRegs, hr, hs] at h

/-- The registers a MASK selects are those of its set bits. -/
theorem mem_maskIndices {mask : BitVec 8} {i : Nat} : i ∈ maskIndices mask ↔ i < 8 ∧ mask.getLsbD i = true := by
  simp only [maskIndices, List.mem_filter, List.mem_cons, List.not_mem_nil, or_false]
  constructor
  · rintro ⟨h, hm⟩; exact ⟨by omega, hm⟩
  · rintro ⟨h, hm⟩; exact ⟨by omega, hm⟩

end Sys2Proof.Machine
end

