-- ==== Sys2Proof/Laws/PerInstr.lean ====
section
/-!
SUPPORT. Statements made per constructor of Instr. `PacketShape`: the encoding of a command is the header of its row, no reserved bit
set, followed by exactly the operand words its opcode fixes (30_encoding.md R70, R72, R79).
-/

namespace Sys2Proof.Laws.PacketShape

/-- The encoding of a command is a legal header of its row with the row's number of operand words. -/
def Statement (i : Instr) : Prop :=
  ∃ h ops, encode i = h :: ops ∧ headerOp h = opcode i.mnemonic ∧ headerLegal i.mnemonic h = true ∧
    ops.length = operandCount i.mnemonic

/-- A header with no IMM field is legal when its other fields avoid the reserved bits. -/
theorem legal_of_fields {m : Mnemonic} (mo : BitVec 8) (ma mb : RegIdx) (mi : BitVec 18) (op : BitVec 8) (a b : RegIdx)
    (imm : BitVec 18) (hm : fixedMask m = mkHeader mo ma mb mi) (hh : headerMatch m = mkHeader (op &&& mo) 0 0 0)
    (ha : a &&& ma = 0) (hb : b &&& mb = 0) (hi : imm &&& mi = 0) : headerLegal m (mkHeader op a b imm) = true := by
  simp [headerLegal, hm, hh, mkHeader_and, ha, hb, hi]

/-- An 8-bit subfield avoids the reserved IMM bits 17:8. -/
theorem low8_and (x : BitVec 8) : x.zeroExtend 18 &&& 0x3FF00 = (0 : BitVec 18) := by
  revert x; decide

/-- IDX avoids the reserved IMM bits of `DATA.RDB`. -/
theorem idx_and (x : BitVec 3) : x.zeroExtend 18 <<< 8 &&& 0x3F8FF = (0 : BitVec 18) := by
  revert x; decide

/-- IDX and BYTE avoid the reserved IMM bits of `DATA.WRB`. -/
theorem idx_byte_and (x : BitVec 3) (y : BitVec 8) :
    (x.zeroExtend 18 <<< 8 ||| y.zeroExtend 18) &&& 0x3F800 = (0 : BitVec 18) := by
  have hx : x.zeroExtend 18 <<< 8 &&& 0x3F800 = (0 : BitVec 18) := by revert x; decide
  have hy : y.zeroExtend 18 &&& 0x3F800 = (0 : BitVec 18) := by revert y; decide
  refine BitVec.eq_of_getLsbD_eq fun i hi => ?_
  have h1 := congrArg (fun v : BitVec 18 => v.getLsbD i) hx
  have h2 := congrArg (fun v : BitVec 18 => v.getLsbD i) hy
  simp only [BitVec.getLsbD_and, BitVec.getLsbD_or] at h1 h2 ⊢
  rw [Bool.and_or_distrib_right, h1, h2, Bool.or_self]

/-- F avoids the reserved IMM bits of `ID.RTR`. -/
theorem flag_and (x : BitVec 1) : x.zeroExtend 18 &&& 0x3FFFE = (0 : BitVec 18) := by
  revert x; decide

theorem idStd (a : RegIdx) (w1 : Word) : Statement (.idStd a w1) :=
  ⟨_, _, rfl, headerOp_mkHeader .., legal_of_fields (m := .idStd) 0xff 0 7 0x3ffff _ _ _ _ (by decide) (by decide) (by simp) (by simp) (by simp), rfl⟩

theorem idExt (a : RegIdx) (w1 : Word) : Statement (.idExt a w1) :=
  ⟨_, _, rfl, headerOp_mkHeader .., legal_of_fields (m := .idExt) 0xff 0 7 0x3ffff _ _ _ _ (by decide) (by decide) (by simp) (by simp) (by simp), rfl⟩

theorem idRtr (a : RegIdx) (b : RegIdx) (f : BitVec 1) : Statement (.idRtr a b f) :=
  ⟨_, _, rfl, headerOp_mkHeader .., legal_of_fields (m := .idRtr) 0xff 0 0 0x3fffe _ _ _ _ (by decide) (by decide) (by simp) (by simp) (flag_and f), rfl⟩

theorem idIsExt (a : RegIdx) : Statement (.idIsExt a) :=
  ⟨_, _, rfl, headerOp_mkHeader .., legal_of_fields (m := .idIsExt) 0xff 0 7 0x3ffff _ _ _ _ (by decide) (by decide) (by simp) (by simp) (by simp), rfl⟩

theorem idIsStd (a : RegIdx) : Statement (.idIsStd a) :=
  ⟨_, _, rfl, headerOp_mkHeader .., legal_of_fields (m := .idIsStd) 0xff 0 7 0x3ffff _ _ _ _ (by decide) (by decide) (by simp) (by simp) (by simp), rfl⟩

theorem idGetRtr (a : RegIdx) : Statement (.idGetRtr a) :=
  ⟨_, _, rfl, headerOp_mkHeader .., legal_of_fields (m := .idGetRtr) 0xff 0 7 0x3ffff _ _ _ _ (by decide) (by decide) (by simp) (by simp) (by simp), rfl⟩

theorem idToId (a : RegIdx) : Statement (.idToId a) :=
  ⟨_, _, rfl, headerOp_mkHeader .., legal_of_fields (m := .idToId) 0xff 0 7 0x3ffff _ _ _ _ (by decide) (by decide) (by simp) (by simp) (by simp), rfl⟩

theorem idCmp (a : RegIdx) (b : RegIdx) : Statement (.idCmp a b) :=
  ⟨_, _, rfl, headerOp_mkHeader .., legal_of_fields (m := .idCmp) 0xff 0 0 0x3ffff _ _ _ _ (by decide) (by decide) (by simp) (by simp) (by simp), rfl⟩

theorem idRaw (a : RegIdx) : Statement (.idRaw a) :=
  ⟨_, _, rfl, headerOp_mkHeader .., legal_of_fields (m := .idRaw) 0xff 0 7 0x3ffff _ _ _ _ (by decide) (by decide) (by simp) (by simp) (by simp), rfl⟩

theorem dataNew (a : RegIdx) (len : BitVec 8) (w1 : Word) (w2 : Word) : Statement (.dataNew a len w1 w2) :=
  ⟨_, _, rfl, headerOp_mkHeader .., legal_of_fields (m := .dataNew) 0xff 0 7 0x3ff00 _ _ _ _ (by decide) (by decide) (by simp) (by simp) (low8_and len), rfl⟩

theorem dataEmpty (a : RegIdx) : Statement (.dataEmpty a) :=
  ⟨_, _, rfl, headerOp_mkHeader .., legal_of_fields (m := .dataEmpty) 0xff 0 7 0x3ffff _ _ _ _ (by decide) (by decide) (by simp) (by simp) (by simp), rfl⟩

theorem dataLen (a : RegIdx) : Statement (.dataLen a) :=
  ⟨_, _, rfl, headerOp_mkHeader .., legal_of_fields (m := .dataLen) 0xff 0 7 0x3ffff _ _ _ _ (by decide) (by decide) (by simp) (by simp) (by simp), rfl⟩

theorem dataIsEmpty (a : RegIdx) : Statement (.dataIsEmpty a) :=
  ⟨_, _, rfl, headerOp_mkHeader .., legal_of_fields (m := .dataIsEmpty) 0xff 0 7 0x3ffff _ _ _ _ (by decide) (by decide) (by simp) (by simp) (by simp), rfl⟩

theorem dataView (a : RegIdx) : Statement (.dataView a) :=
  ⟨_, _, rfl, headerOp_mkHeader .., legal_of_fields (m := .dataView) 0xff 0 7 0x3ffff _ _ _ _ (by decide) (by decide) (by simp) (by simp) (by simp), rfl⟩

theorem dataRdb (a : RegIdx) (idx : BitVec 3) : Statement (.dataRdb a idx) :=
  ⟨_, _, rfl, headerOp_mkHeader .., legal_of_fields (m := .dataRdb) 0xff 0 7 0x3f8ff _ _ _ _ (by decide) (by decide) (by simp) (by simp) (idx_and idx), rfl⟩

theorem dataWrb (a : RegIdx) (idx : BitVec 3) (byte : Byte) : Statement (.dataWrb a idx byte) :=
  ⟨_, _, rfl, headerOp_mkHeader .., legal_of_fields (m := .dataWrb) 0xff 0 7 0x3f800 _ _ _ _ (by decide) (by decide) (by simp) (by simp) (idx_byte_and idx byte), rfl⟩

theorem dataEq (a : RegIdx) (b : RegIdx) : Statement (.dataEq a b) :=
  ⟨_, _, rfl, headerOp_mkHeader .., legal_of_fields (m := .dataEq) 0xff 0 0 0x3ffff _ _ _ _ (by decide) (by decide) (by simp) (by simp) (by simp), rfl⟩

theorem dataFrom0 (a : RegIdx) : Statement (.dataFrom0 a) :=
  ⟨_, _, rfl, headerOp_mkHeader .., legal_of_fields (m := .dataFrom0) 0xff 0 7 0x3ffff _ _ _ _ (by decide) (by decide) (by simp) (by simp) (by simp), rfl⟩

theorem dataFrom1 (a : RegIdx) (w1 : Word) : Statement (.dataFrom1 a w1) :=
  ⟨_, _, rfl, headerOp_mkHeader .., legal_of_fields (m := .dataFrom1) 0xff 0 7 0x3ffff _ _ _ _ (by decide) (by decide) (by simp) (by simp) (by simp), rfl⟩

theorem dataFrom2 (a : RegIdx) (w1 : Word) : Statement (.dataFrom2 a w1) :=
  ⟨_, _, rfl, headerOp_mkHeader .., legal_of_fields (m := .dataFrom2) 0xff 0 7 0x3ffff _ _ _ _ (by decide) (by decide) (by simp) (by simp) (by simp), rfl⟩

theorem dataFrom3 (a : RegIdx) (w1 : Word) : Statement (.dataFrom3 a w1) :=
  ⟨_, _, rfl, headerOp_mkHeader .., legal_of_fields (m := .dataFrom3) 0xff 0 7 0x3ffff _ _ _ _ (by decide) (by decide) (by simp) (by simp) (by simp), rfl⟩

theorem dataFrom4 (a : RegIdx) (w1 : Word) : Statement (.dataFrom4 a w1) :=
  ⟨_, _, rfl, headerOp_mkHeader .., legal_of_fields (m := .dataFrom4) 0xff 0 7 0x3ffff _ _ _ _ (by decide) (by decide) (by simp) (by simp) (by simp), rfl⟩

theorem dataFrom5 (a : RegIdx) (w1 : Word) (w2 : Word) : Statement (.dataFrom5 a w1 w2) :=
  ⟨_, _, rfl, headerOp_mkHeader .., legal_of_fields (m := .dataFrom5) 0xff 0 7 0x3ffff _ _ _ _ (by decide) (by decide) (by simp) (by simp) (by simp), rfl⟩

theorem dataFrom6 (a : RegIdx) (w1 : Word) (w2 : Word) : Statement (.dataFrom6 a w1 w2) :=
  ⟨_, _, rfl, headerOp_mkHeader .., legal_of_fields (m := .dataFrom6) 0xff 0 7 0x3ffff _ _ _ _ (by decide) (by decide) (by simp) (by simp) (by simp), rfl⟩

theorem dataFrom7 (a : RegIdx) (w1 : Word) (w2 : Word) : Statement (.dataFrom7 a w1 w2) :=
  ⟨_, _, rfl, headerOp_mkHeader .., legal_of_fields (m := .dataFrom7) 0xff 0 7 0x3ffff _ _ _ _ (by decide) (by decide) (by simp) (by simp) (by simp), rfl⟩

theorem dataFrom8 (a : RegIdx) (w1 : Word) (w2 : Word) : Statement (.dataFrom8 a w1 w2) :=
  ⟨_, _, rfl, headerOp_mkHeader .., legal_of_fields (m := .dataFrom8) 0xff 0 7 0x3ffff _ _ _ _ (by decide) (by decide) (by simp) (by simp) (by simp), rfl⟩

theorem frmNewd (a : RegIdx) (b : RegIdx) (w1 : Word) : Statement (.frmNewd a b w1) :=
  ⟨_, _, rfl, headerOp_mkHeader .., legal_of_fields (m := .frmNewd) 0xff 0 0 0x3ffff _ _ _ _ (by decide) (by decide) (by simp) (by simp) (by simp), rfl⟩

theorem frmNewr (a : RegIdx) (dlc : BitVec 8) (w1 : Word) : Statement (.frmNewr a dlc w1) :=
  ⟨_, _, rfl, headerOp_mkHeader .., legal_of_fields (m := .frmNewr) 0xff 0 7 0x3ff00 _ _ _ _ (by decide) (by decide) (by simp) (by simp) (low8_and dlc), rfl⟩

theorem frmIsExt (a : RegIdx) : Statement (.frmIsExt a) :=
  ⟨_, _, rfl, headerOp_mkHeader .., legal_of_fields (m := .frmIsExt) 0xff 0 7 0x3ffff _ _ _ _ (by decide) (by decide) (by simp) (by simp) (by simp), rfl⟩

theorem frmIsStd (a : RegIdx) : Statement (.frmIsStd a) :=
  ⟨_, _, rfl, headerOp_mkHeader .., legal_of_fields (m := .frmIsStd) 0xff 0 7 0x3ffff _ _ _ _ (by decide) (by decide) (by simp) (by simp) (by simp), rfl⟩

theorem frmIsRem (a : RegIdx) : Statement (.frmIsRem a) :=
  ⟨_, _, rfl, headerOp_mkHeader .., legal_of_fields (m := .frmIsRem) 0xff 0 7 0x3ffff _ _ _ _ (by decide) (by decide) (by simp) (by simp) (by simp), rfl⟩

theorem frmIsData (a : RegIdx) : Statement (.frmIsData a) :=
  ⟨_, _, rfl, headerOp_mkHeader .., legal_of_fields (m := .frmIsData) 0xff 0 7 0x3ffff _ _ _ _ (by decide) (by decide) (by simp) (by simp) (by simp), rfl⟩

theorem frmId (a : RegIdx) : Statement (.frmId a) :=
  ⟨_, _, rfl, headerOp_mkHeader .., legal_of_fields (m := .frmId) 0xff 0 7 0x3ffff _ _ _ _ (by decide) (by decide) (by simp) (by simp) (by simp), rfl⟩

theorem frmDlc (a : RegIdx) : Statement (.frmDlc a) :=
  ⟨_, _, rfl, headerOp_mkHeader .., legal_of_fields (m := .frmDlc) 0xff 0 7 0x3ffff _ _ _ _ (by decide) (by decide) (by simp) (by simp) (by simp), rfl⟩

theorem frmData (a : RegIdx) (b : RegIdx) : Statement (.frmData a b) :=
  ⟨_, _, rfl, headerOp_mkHeader .., legal_of_fields (m := .frmData) 0xff 0 0 0x3ffff _ _ _ _ (by decide) (by decide) (by simp) (by simp) (by simp), rfl⟩

theorem frmPrio (a : RegIdx) (b : RegIdx) : Statement (.frmPrio a b) :=
  ⟨_, _, rfl, headerOp_mkHeader .., legal_of_fields (m := .frmPrio) 0xff 0 0 0x3ffff _ _ _ _ (by decide) (by decide) (by simp) (by simp) (by simp), rfl⟩

theorem priCmp (a : RegIdx) (b : RegIdx) : Statement (.priCmp a b) :=
  ⟨_, _, rfl, headerOp_mkHeader .., legal_of_fields (m := .priCmp) 0xff 0 0 0x3ffff _ _ _ _ (by decide) (by decide) (by simp) (by simp) (by simp), rfl⟩

theorem arbSel (mask : BitVec 8) : Statement (.arbSel mask) :=
  ⟨_, _, rfl, headerOp_mkHeader .., legal_of_fields (m := .arbSel) 0xff 7 7 0x3ff00 _ _ _ _ (by decide) (by decide) (by simp) (by simp) (low8_and mask), rfl⟩

end Sys2Proof.Laws.PacketShape
end

