-- ==== Sys2Proof/Laws/Step.lean ====
section
/-!
SUPPORT. The step on each host action, and the ends of a command in the terms of Safety.lean.
-/

namespace Sys2Proof.Machine

open Sys2Proof.Safety

theorem State.complete_eq_ok (s : State) : s.complete = ok s := by
  simp [State.complete, ok, statusAfterOk_eq]

/-- A rejection in raw words. -/
theorem State.raise_eq_rejected (s : State) (e : ErrorCode) (h : e.isFault = false) :
    s.raise e = rejected s (e.number.zeroExtend 32) := by
  simp [State.raise, rejected, statusAfterError_rejection _ h]

/-- A fault in raw words. -/
theorem State.raise_eq_faulted (s : State) (e : ErrorCode) (h : e.isFault = true) :
    s.raise e = faulted s (e.number.zeroExtend 32) := by
  simp [State.raise, faulted, statusAfterError_fault _ h]

theorem State.raise_payloadTooLarge (s : State) : s.raise .payloadTooLarge = rejected s 1 :=
  s.raise_eq_rejected _ rfl

theorem State.raise_invalidDlc (s : State) : s.raise .invalidDlc = rejected s 2 := s.raise_eq_rejected _ rfl

theorem State.raise_invalidIdentifier (s : State) : s.raise .invalidIdentifier = rejected s 3 :=
  s.raise_eq_rejected _ rfl

theorem State.raise_illegalCommand (s : State) : s.raise .illegalCommand = faulted s 8 := s.raise_eq_faulted _ rfl

theorem State.raise_indexRange (s : State) : s.raise .indexRange = faulted s 9 := s.raise_eq_faulted _ rfl

theorem State.raise_unwritten (s : State) : s.raise .unwritten = faulted s 10 := s.raise_eq_faulted _ rfl

theorem State.raise_viewBounds (s : State) : s.raise .viewBounds = faulted s 11 := s.raise_eq_faulted _ rfl

theorem presentRest_eq_afterPacket (rest : List Word) (acts : List HostAction) :
    presentRest rest acts = afterPacket rest acts := by
  cases rest <;> simp [presentRest, afterPacket]

/-- The words of a packet of row `m`: its command, or an illegal packet of the same length. -/
theorem decode_packet {m : Mnemonic} {h : Word} {ops : List Word} (rest : List Word) (ho : headerOp h = opcode m)
    (hn : ops.length = operandCount m) :
    decode (h :: ops ++ rest) =
      if h &&& fixedMask m = headerMatch m then .command (build h (ops.getD 0 0) (ops.getD 1 0) m) rest
      else .illegal rest := by
  have h2 : operandCount m ≤ 2 := by cases m <;> decide
  have hl : ¬ (ops ++ rest).length < operandCount m := by simp [hn]
  have hd : (ops ++ rest).drop (operandCount m) = rest := by rw [← hn]; exact List.drop_left
  simp only [List.cons_append, decode, ho, rowOf_opcode, hl, if_false, hd, headerLegal, beq_iff_eq]
  split
  · congr 1
    match ops, hn with
    | [], hn => cases m <;> simp_all [operandCount, build]
    | [x], hn => cases m <;> simp_all [operandCount, build]
    | [x, y], hn => simp
    | _ :: _ :: _ :: _, hn => simp at hn; omega
  · rfl

/-- What a presented packet does under `step`. -/
theorem step_issue (s : State) (ws : List Word) (acts : List HostAction) :
    step { s with host := .issue ws :: acts } =
      match decode ws with
      | .command i rest => exec i { s with host := afterPacket rest acts }
      | .illegal rest => .next (faulted { s with host := afterPacket rest acts } 8)
      | .truncated => .refused .truncatedPacket
      | .nothing => .next { s with host := acts } := by
  simp only [step]
  cases decode ws <;> simp [presentRest_eq_afterPacket, State.raise_illegalCommand]

end Sys2Proof.Machine
end

