-- ==== Sys2Proof/Tests/Slice0.lean ====
section
/-!
SUPPORT. The model's own tests. Every expected word is a vector or an example of spec/ or is worked out by hand from the rule named.
First the WellFormed checks, then decoding, then one step on a small state, then a witness for the hypotheses of every
statement in Certificates/Slice0/Obligations.lean.
-/

namespace Sys2Proof.Tests

open Sys2Proof Sys2Proof.Machine Sys2Proof.Safety

/-! ### Helpers -/

/-- A state with five registers in each file, one of them unwritten: most values are those of the examples in spec/. -/
def demo : State where
  ir := [some 0x24600004, some 0x24600000, none, some 0x24600002, some 0xFFFFFFF8]
  dr := [some ⟨2, #v[0xAA, 0xCC, 0, 0, 0, 0, 0, 0]⟩, some ⟨2, #v[0xAA, 0xCC, 0, 0, 0, 0, 0, 0]⟩, none,
    some ⟨8, #v[1, 2, 3, 4, 5, 6, 7, 8]⟩, some ⟨0, #v[0, 0, 0, 0, 0, 0, 0, 0]⟩]
  fr := [some ⟨0x24600004, ⟨3, #v[1, 2, 3, 0, 0, 0, 0, 0]⟩⟩, some ⟨0x91A2B3C2, ⟨7, #v[0, 0, 0, 0, 0, 0, 0, 0]⟩⟩, none,
    some ⟨0xFFFFFFF8, ⟨4, #v[0x11, 0x22, 0x33, 0x44, 0, 0, 0, 0]⟩⟩,
    some ⟨0x00000006, ⟨0, #v[0, 0, 0, 0, 0, 0, 0, 0]⟩⟩]
  pr := [some 0x24600004, some 0x00000004, some 0x00000004, some 0xFFFFFFF8, none]
  status := 0
  res0 := 0x77
  res1 := 0x88
  res2 := 0x99
  host := []

/-- `s` with the host about to present `ws`. -/
def present (ws : List Word) (s : State) : State := { s with host := [.issue ws] }

/-- A view of the next state of an outcome. -/
def nextOf {α : Type} (f : State → α) : Host.Outcome State Fault Refusal → Option α
  | .next t => some (f t)
  | _ => none

/-- A view of the state after one step with the words `ws` presented. -/
def see {α : Type} (f : State → α) (ws : List Word) (s : State) : Option α := nextOf f (step (present ws s))

/-- STATUS and RES0 after one step with the words `ws` presented. -/
def answer (ws : List Word) (s : State) : Option (Word × Word) := see (fun t => (t.status, t.res0)) ws s

/-! ### WellFormed refuses each ill-formed term (30_encoding.md R78, 43_priority.md R222) -/

theorem test_wellFormed_ir : Instr.wellFormed ⟨4, 8, 8, 8⟩ (.idStd 3 0) = true ∧
    Instr.wellFormed ⟨4, 8, 8, 8⟩ (.idStd 4 0) = false ∧ Instr.wellFormed ⟨4, 8, 8, 8⟩ (.idCmp 0 4) = false := by decide

theorem test_wellFormed_dr : Instr.wellFormed ⟨8, 1, 8, 8⟩ (.dataNew 0 9 0 0) = true ∧
    Instr.wellFormed ⟨8, 1, 8, 8⟩ (.dataNew 1 0 0 0) = false ∧ Instr.wellFormed ⟨8, 1, 8, 8⟩ (.frmNewd 7 1 0) = false := by
  decide

theorem test_wellFormed_fr : Instr.wellFormed ⟨8, 8, 7, 8⟩ (.frmData 7 6) = true ∧
    Instr.wellFormed ⟨8, 8, 7, 8⟩ (.frmData 6 7) = false ∧ Instr.wellFormed ⟨8, 8, 7, 8⟩ (.frmNewr 7 0 0) = false := by
  decide

theorem test_wellFormed_pr : Instr.wellFormed ⟨8, 8, 8, 2⟩ (.priCmp 1 0) = true ∧
    Instr.wellFormed ⟨8, 8, 8, 2⟩ (.priCmp 0 2) = false ∧ Instr.wellFormed ⟨8, 8, 8, 2⟩ (.frmPrio 2 0) = false := by decide

theorem test_wellFormed_mask : Instr.wellFormed ⟨8, 8, 8, 2⟩ (.arbSel 0x03) = true ∧
    Instr.wellFormed ⟨8, 8, 8, 2⟩ (.arbSel 0x04) = false ∧ Instr.wellFormed ⟨8, 8, 8, 7⟩ (.arbSel 0x80) = false := by decide

/-! ### Decoding -/

/-- 30_encoding.md R81: each row's pattern, with A = 5, B = 2 and its other fields filled in. -/
theorem test_decode_id :
    decode [0b00010000101000000000000000000000, 0x04030201] = .command (.idStd 5 0x04030201) [] ∧
    decode [0b00010001101000000000000000000000, 0x04030201] = .command (.idExt 5 0x04030201) [] ∧
    decode [0b00010010101010000000000000000001] = .command (.idRtr 5 2 1) [] ∧
    decode [0b00010011101000000000000000000000] = .command (.idIsExt 5) [] ∧
    decode [0b00010100101000000000000000000000] = .command (.idIsStd 5) [] ∧
    decode [0b00010101101000000000000000000000] = .command (.idGetRtr 5) [] ∧
    decode [0b00010110101000000000000000000000] = .command (.idToId 5) [] ∧
    decode [0b00010111101010000000000000000000] = .command (.idCmp 5 2) [] ∧
    decode [0b00011000101000000000000000000000] = .command (.idRaw 5) [] := by decide

/-- 30_encoding.md R81: each row's pattern, with A = 5, B = 2 and its other fields filled in. -/
theorem test_decode_data_rows :
    decode [0b00100000101000000000000000000011, 0x04030201, 0x08070605] = .command (.dataNew 5 3 0x04030201 0x08070605) [] ∧
    decode [0b00100001101000000000000000000000] = .command (.dataEmpty 5) [] ∧
    decode [0b00100010101000000000000000000000] = .command (.dataLen 5) [] ∧
    decode [0b00100011101000000000000000000000] = .command (.dataIsEmpty 5) [] ∧
    decode [0b00100100101000000000000000000000] = .command (.dataView 5) [] ∧
    decode [0b00100101101000000000011000000000] = .command (.dataRdb 5 6) [] ∧
    decode [0b00100110101000000000011011001100] = .command (.dataWrb 5 6 0xCC) [] ∧
    decode [0b00100111101010000000000000000000] = .command (.dataEq 5 2) [] ∧
    decode [0b00110000101000000000000000000000] = .command (.dataFrom0 5) [] := by decide

/-- 30_encoding.md R81: each row's pattern, with A = 5, B = 2 and its other fields filled in. -/
theorem test_decode_data_more_rows :
    decode [0b00110001101000000000000000000000, 0x04030201] = .command (.dataFrom1 5 0x04030201) [] ∧
    decode [0b00110010101000000000000000000000, 0x04030201] = .command (.dataFrom2 5 0x04030201) [] ∧
    decode [0b00110011101000000000000000000000, 0x04030201] = .command (.dataFrom3 5 0x04030201) [] ∧
    decode [0b00110100101000000000000000000000, 0x04030201] = .command (.dataFrom4 5 0x04030201) [] ∧
    decode [0b00110101101000000000000000000000, 0x04030201, 0x08070605] = .command (.dataFrom5 5 0x04030201 0x08070605) [] ∧
    decode [0b00110110101000000000000000000000, 0x04030201, 0x08070605] = .command (.dataFrom6 5 0x04030201 0x08070605) [] ∧
    decode [0b00110111101000000000000000000000, 0x04030201, 0x08070605] = .command (.dataFrom7 5 0x04030201 0x08070605) [] ∧
    decode [0b00111000101000000000000000000000, 0x04030201, 0x08070605] = .command (.dataFrom8 5 0x04030201 0x08070605) [] := by decide

/-- 30_encoding.md R81: each row's pattern, with A = 5, B = 2 and its other fields filled in. -/
theorem test_decode_frame_rows :
    decode [0b01000000101010000000000000000000, 0x04030201] = .command (.frmNewd 5 2 0x04030201) [] ∧
    decode [0b01000001101000000000000000000111, 0x04030201] = .command (.frmNewr 5 7 0x04030201) [] ∧
    decode [0b01000010101000000000000000000000] = .command (.frmIsExt 5) [] ∧
    decode [0b01000011101000000000000000000000] = .command (.frmIsStd 5) [] ∧
    decode [0b01000100101000000000000000000000] = .command (.frmIsRem 5) [] ∧
    decode [0b01000101101000000000000000000000] = .command (.frmIsData 5) [] ∧
    decode [0b01000110101000000000000000000000] = .command (.frmId 5) [] ∧
    decode [0b01000111101000000000000000000000] = .command (.frmDlc 5) [] ∧
    decode [0b01001000101010000000000000000000] = .command (.frmData 5 2) [] := by decide

/-- 30_encoding.md R81: each row's pattern, with A = 5, B = 2 and its other fields filled in. -/
theorem test_decode_frame_more_rows :
    decode [0b01001001101010000000000000000000] = .command (.frmPrio 5 2) [] := by decide

/-- 30_encoding.md R81: each row's pattern, with A = 5, B = 2 and its other fields filled in. -/
theorem test_decode_priority :
    decode [0b01010000101010000000000000000000] = .command (.priCmp 5 2) [] ∧
    decode [0b01010001000000000000000010001111] = .command (.arbSel 0x8F) [] := by decide


/-- 95_test_vectors.md V-EN-13 to V-EN-17, V-DA-16, V-FR-15, V-PR-08, V-EX-07: illegal headers. -/
theorem test_decode_illegal :
    decode [0x00000000, 1] = .illegal [1] ∧ decode [0xFF000000, 1] = .illegal [1] ∧ decode [0x19000000, 1] = .illegal [1] ∧
    decode [0x39000000] = .illegal [] ∧ decode [0x10040000, 0x123, 1] = .illegal [1] ∧
    decode [0x20040001, 0, 0, 1] = .illegal [1] ∧ decode [0x25000101] = .illegal [] ∧
    decode [0x41000100, 0x80000000] = .illegal [] ∧ decode [0x51200001] = .illegal [] ∧
    decode [0x12000002] = .illegal [] := by decide

/-- 20_memory.md R54: a header without its operand words is a truncated packet, a reserved bit set or not. -/
theorem test_decode_truncated : decode [0x20000008, 1] = .truncated ∧ decode [0x10000000] = .truncated ∧
    decode [0x10040000] = .truncated ∧ decode [] = .nothing := by decide

/-- 95_test_vectors.md V-EN-02, V-EN-10 to V-EN-12, numbered as opcode_table.json numbers the bits. -/
theorem test_decodeTableWord : decodeTableWord 64 0x0000012340000000 = some (.frmNewd 0 0 0x123) ∧
    decodeTableWord 32 0x510000FF = some (.arbSel 0xFF) ∧ decodeTableWord 64 0x000000AB31400000 = some (.dataFrom1 2 0xAB) ∧
    decodeTableWord 64 0x048C000011000000 = some (.idExt 0 0x048C0000) ∧
    decodeTableWord 32 0x20000008 = some (.dataNew 0 8 0 0) ∧ decodeTableWord 32 0x19000000 = none := by decide

/-- 95_test_vectors.md section 2: the IDW table. -/
theorem test_decodeIdW : decodeIdW 0x00000000 = .ok (.standard 0) ∧ decodeIdW 0x000007FF = .ok (.standard 0x7FF) ∧
    decodeIdW 0x00000800 = .error .invalidIdentifier ∧ decodeIdW 0x40000000 = .error .invalidIdentifier ∧
    decodeIdW 0x80000000 = .ok (.extended 0) ∧ decodeIdW 0x9FFFFFFF = .ok (.extended 0x1FFFFFFF) ∧
    decodeIdW 0xA0000000 = .error .invalidIdentifier ∧ decodeIdW 0xC0000000 = .error .invalidIdentifier := by
  refine ⟨?_, ?_, ?_, ?_, ?_, ?_, ?_, ?_⟩ <;> rfl

/-- 95_test_vectors.md V-DA-04, V-FR-04: lines with a byte list and with an Id; a list of the wrong length assembles to nothing. -/
theorem test_assemble : assembleWords (.dataNew 0 9 [1, 2, 3, 4, 5, 6, 7, 8]) = some [0x20000009, 0x04030201, 0x08070605] ∧
    assembleWords (.frmNewd 0 0 (.ext 0x1FFFFFFF)) = some [0x40000000, 0x9FFFFFFF] ∧ assemble (.dataFrom 3 0 [1, 2]) = none ∧
    assembleWords (.dataFrom 5 0 [1, 2, 3, 4, 5]) = some [0x35000000, 0x04030201, 0x00000005] := by decide

/-! ### The step -/

/-- 40_idreg.md R110's and 41_data.md R144's commands run as the first command after reset, and the packet is consumed. -/
theorem test_first_command :
    nextOf (fun t => (t.ir[0]?, t.status, t.host)) (step (State.reset.withFetchWord 64 0x0000012310000000)) =
      some (some (some 0x24600004), 0, []) ∧
    nextOf (fun t => t.dr[2]?) (step (State.reset.withFetchWord 32 0x21400000)) =
      some (some (some ⟨0, Vector.replicate 8 0⟩)) := by decide

/-- 95_test_vectors.md V-EN-16, V-EX-08: an illegal packet is consumed whole, FAULT is set, and the next packet is left. -/
theorem test_step_illegal : see (fun t => (t.status, t.host)) [0x10040000, 0x123, 0x21000000] demo =
      some (0x108, [.issue [0x21000000]]) ∧
    see (fun t => (t.status, t.host)) [0x00000000, 0x21000000] demo = some (0x108, [.issue [0x21000000]]) := by decide

/-- 20_memory.md R54: a truncated packet has no move. -/
theorem test_step_truncated : step (present [0x10000000] demo) = .refused .truncatedPacket := rfl

/-- 95_test_vectors.md V-EX-08, V-EX-09: FAULT is sticky and only reset clears it; a packet under RST is not executed. -/
theorem test_step_fault_is_sticky : see (fun t => t.status) [0x21000000] { demo with status := 0x108 } = some 0x100 ∧
    see (fun t => t.status) [0x20000009, 0, 0] { demo with status := 0x100 } = some 0x101 ∧
    nextOf (fun t => (t.status, t.dr)) (step { demo with status := 0x101, host := [.reset [0x21000000]] }) =
      some (0, [none, none, none, none, none]) := by decide

/-- 20_memory.md R56: a host read changes nothing in the block. -/
theorem test_step_read : step { demo with host := [.read .res0] } = .next demo ∧ demo.hostRead .res0 = 0x77 := ⟨rfl, rfl⟩

/-! ### One step of every command -/

/-- 40_idreg.md R110: `0x7FF` packs to `0xFFE00004`, `0x800` is rejected (95_test_vectors.md V-ID-04, V-ID-22). -/
theorem test_idStd : see (fun t => (t.ir[4]?, t.status, t.res0)) [0x10800000, 0x7FF] demo = some (some (some 0xFFE00004), 0, 0x77) ∧
    see (fun t => (t.ir[4]?, t.status)) [0x10800000, 0x800] demo = some (some (some 0xFFFFFFF8), 3) := by decide

/-- 40_idreg.md R111; 95_test_vectors.md V-ID-08, V-ID-22. -/
theorem test_idExt : see (fun t => (t.ir[1]?, t.status)) [0x11200000, 0x1FFFFFFF] demo = some (some (some 0xFFFFFFF8), 0) ∧
    see (fun t => (t.ir[1]?, t.status)) [0x11200000, 0x20000000] demo = some (some (some 0x24600000), 3) := by decide

/-- 40_idreg.md R112's example, and A == B clearing the flag. -/
theorem test_idRtr : see (fun t => (t.ir[3]?, t.ir[1]?)) [0x12640001] demo =
      some (some (some 0x24600002), some (some 0x24600000)) ∧
    see (fun t => t.ir[3]?) [0x126C0000] demo = some (some (some 0x24600000)) := by decide

/-- 40_idreg.md R113's example, and an extended register. -/
theorem test_idIsExt : answer [0x13000000] demo = some (0, 0) ∧ answer [0x13200000] demo = some (0, 1) := by decide

/-- 40_idreg.md R114's example, and an extended register. -/
theorem test_idIsStd : answer [0x14000000] demo = some (0, 1) ∧ answer [0x14200000] demo = some (0, 0) := by decide

/-- 40_idreg.md R115's example, and a data register. -/
theorem test_idGetRtr : answer [0x15600000] demo = some (0, 1) ∧ answer [0x15000000] demo = some (0, 0) := by decide

/-- 40_idreg.md R116; 95_test_vectors.md V-ID-03, V-ID-08b, V-ID-10. -/
theorem test_idToId : answer [0x16000000] demo = some (0, 0x00000123) ∧ answer [0x16200000] demo = some (0, 0x848C0000) ∧
    answer [0x16600000] demo = some (0, 0x848C0000) := by decide

/-- 40_idreg.md R117's example; 95_test_vectors.md V-ID-20b, V-ID-21, V-EX-04. -/
theorem test_idCmp : answer [0x17200000] demo = some (0, 1) ∧ answer [0x17800000] demo = some (0, 2) ∧
    answer [0x17000000] demo = some (0, 0) ∧ answer [0x17080000] demo = some (0x10A, 0x77) := by decide

/-- 40_idreg.md R118's example. -/
theorem test_idRaw : answer [0x18600000] demo = some (0, 0x24600002) := by decide

/-- 41_data.md R143; 95_test_vectors.md V-DA-02, V-DA-04. -/
theorem test_dataNew : see (fun t => (t.dr[0]?, t.status)) [0x20000003, 0xFFFFFFFF, 0xFFFFFFFF] demo =
      some (some (some ⟨3, #v[0xFF, 0xFF, 0xFF, 0, 0, 0, 0, 0]⟩), 0) ∧
    see (fun t => (t.dr[3]?, t.status)) [0x20600009, 0x04030201, 0x08070605] demo =
      some (some (some ⟨8, #v[1, 2, 3, 4, 5, 6, 7, 8]⟩), 1) := by decide

/-- 41_data.md R144's example. -/
theorem test_dataEmpty : see (fun t => (t.dr[2]?, t.status)) [0x21400000] demo =
    some (some (some ⟨0, #v[0, 0, 0, 0, 0, 0, 0, 0]⟩), 0) := by decide

/-- 41_data.md R155. -/
theorem test_dataLen : answer [0x22600000] demo = some (0, 8) ∧ answer [0x22400000] demo = some (0x10A, 0x77) := by decide

/-- 41_data.md R156. -/
theorem test_dataIsEmpty : answer [0x23800000] demo = some (0, 1) ∧ answer [0x23000000] demo = some (0, 0) := by decide

/-- 41_data.md R157; 95_test_vectors.md V-DA-06; P3 step 12. -/
theorem test_dataView : see outputs [0x24600000] demo = some (0, 8, 0x04030201, 0x08070605) ∧
    see outputs [0x24400000] demo = some (0x10A, 0x77, 0x88, 0x99) := by decide

/-- 41_data.md R158's example; 95_test_vectors.md V-DA-06, V-DA-14. -/
theorem test_dataRdb : answer [0x25000100] demo = some (0, 0xCC) ∧ answer [0x25600700] demo = some (0, 8) ∧
    answer [0x25800000] demo = some (0x10B, 0x77) := by decide

/-- 41_data.md R159; 95_test_vectors.md V-DA-12, V-DA-13 and P5 step 6. -/
theorem test_dataWrb : see (fun t => t.dr[3]?) [0x266007EE] demo = some (some (some ⟨8, #v[1, 2, 3, 4, 5, 6, 7, 0xEE]⟩)) ∧
    see (fun t => (t.dr[0]?, t.status)) [0x260002DD] demo =
      some (some (some ⟨2, #v[0xAA, 0xCC, 0, 0, 0, 0, 0, 0]⟩), 0x10B) := by decide

/-- 41_data.md R160's example; 95_test_vectors.md V-DA-09's prefix rule. -/
theorem test_dataEq : answer [0x27040000] demo = some (0, 1) ∧ answer [0x27100000] demo = some (0, 0) := by decide

/-- 41_data.md R146's example. -/
theorem test_dataFrom0 : see (fun t => t.dr[0]?) [0x30000000] demo = some (some (some ⟨0, #v[0, 0, 0, 0, 0, 0, 0, 0]⟩)) := by
  decide

/-- 41_data.md R147: `W1[31:8]` is ignored. -/
theorem test_dataFrom1 : see (fun t => t.dr[0]?) [0x31000000, 0xFFFFFFAB] demo =
    some (some (some ⟨1, #v[0xAB, 0, 0, 0, 0, 0, 0, 0]⟩)) := by decide

/-- 41_data.md R148: `W1[31:16]` is ignored. -/
theorem test_dataFrom2 : see (fun t => t.dr[0]?) [0x32000000, 0xFFFFBBAA] demo =
    some (some (some ⟨2, #v[0xAA, 0xBB, 0, 0, 0, 0, 0, 0]⟩)) := by decide

/-- 41_data.md R149's example. -/
theorem test_dataFrom3 : see (fun t => t.dr[0]?) [0x33000000, 0x00030201] demo =
    some (some (some ⟨3, #v[1, 2, 3, 0, 0, 0, 0, 0]⟩)) := by decide

/-- 41_data.md R150's example. -/
theorem test_dataFrom4 : see (fun t => t.dr[1]?) [0x34200000, 0x44332211] demo =
    some (some (some ⟨4, #v[0x11, 0x22, 0x33, 0x44, 0, 0, 0, 0]⟩)) := by decide

/-- 95_test_vectors.md V-DA-07: `W2[31:8]` is ignored. -/
theorem test_dataFrom5 : see (fun t => t.dr[0]?) [0x35000000, 0x04030201, 0xFFFFFF05] demo =
    some (some (some ⟨5, #v[1, 2, 3, 4, 5, 0, 0, 0]⟩)) := by decide

/-- 41_data.md R152's example. -/
theorem test_dataFrom6 : see (fun t => t.dr[0]?) [0x36000000, 0x04030201, 0x00000605] demo =
    some (some (some ⟨6, #v[1, 2, 3, 4, 5, 6, 0, 0]⟩)) := by decide

/-- 41_data.md R153: `W2[31:24]` is ignored. -/
theorem test_dataFrom7 : see (fun t => t.dr[0]?) [0x37000000, 0x04030201, 0xFF070605] demo =
    some (some (some ⟨7, #v[1, 2, 3, 4, 5, 6, 7, 0]⟩)) := by decide

/-- 41_data.md R154's example. -/
theorem test_dataFrom8 : see (fun t => t.dr[0]?) [0x38000000, 0x04030201, 0x08070605] demo =
    some (some (some ⟨8, #v[1, 2, 3, 4, 5, 6, 7, 8]⟩)) := by decide

/-- 42_frame.md R181; 95_test_vectors.md V-EX-02: InvalidIdentifier comes before Unwritten. -/
theorem test_frmNewd : see (fun t => (t.fr[2]?, t.status)) [0x404C0000, 0x00000123] demo =
      some (some (some ⟨0x24600004, ⟨8, #v[1, 2, 3, 4, 5, 6, 7, 8]⟩⟩), 0) ∧
    answer [0x40080000, 0x40000000] demo = some (3, 0x77) ∧ answer [0x40080000, 0x00000123] demo = some (0x10A, 0x77) := by
  decide

/-- 42_frame.md R182's example; 95_test_vectors.md V-FR-06, V-FR-14. -/
theorem test_frmNewr : see (fun t => (t.fr[0]?, t.status)) [0x41000007, 0x92345678] demo =
      some (some (some ⟨0x91A2B3C2, ⟨7, #v[0, 0, 0, 0, 0, 0, 0, 0]⟩⟩), 0) ∧
    answer [0x41000008, 0x92345678] demo = some (2, 0x77) ∧ answer [0x41000008, 0x00000800] demo = some (3, 0x77) := by decide

/-- 42_frame.md R183. -/
theorem test_frmIsExt : answer [0x42200000] demo = some (0, 1) ∧ answer [0x42000000] demo = some (0, 0) := by decide

/-- 42_frame.md R184. -/
theorem test_frmIsStd : answer [0x43000000] demo = some (0, 1) ∧ answer [0x43200000] demo = some (0, 0) := by decide

/-- 42_frame.md R185. -/
theorem test_frmIsRem : answer [0x44200000] demo = some (0, 1) ∧ answer [0x44000000] demo = some (0, 0) := by decide

/-- 42_frame.md R186. -/
theorem test_frmIsData : answer [0x45000000] demo = some (0, 1) ∧ answer [0x45800000] demo = some (0, 0) := by decide

/-- 42_frame.md R187's example; 95_test_vectors.md V-FR-04. -/
theorem test_frmId : answer [0x46200000] demo = some (0, 0x92345678) ∧ answer [0x46600000] demo = some (0, 0x9FFFFFFF) ∧
    answer [0x46000000] demo = some (0, 0x00000123) := by decide

/-- 42_frame.md R188's example; P3 step 6. -/
theorem test_frmDlc : answer [0x47000000] demo = some (0, 3) ∧ answer [0x47200000] demo = some (0, 7) := by decide

/-- 42_frame.md R189's examples: a data frame and a remote frame. -/
theorem test_frmData : see (fun t => (t.res0, t.dr[2]?)) [0x48400000] demo =
      some (1, some (some ⟨3, #v[1, 2, 3, 0, 0, 0, 0, 0]⟩)) ∧
    see (fun t => (t.res0, t.status, t.dr[2]?)) [0x48440000] demo = some (0, 0, some none) := by decide

/-- 42_frame.md R190. -/
theorem test_frmPrio : see (fun t => (t.pr[1]?, t.status)) [0x492C0000] demo = some (some (some 0xFFFFFFF8), 0) ∧
    answer [0x49280000] demo = some (0x10A, 0x77) := by decide

/-- 95_test_vectors.md V-PR-09 and V-PR-10. V-PR-09's printed word has A = 0 by 30_encoding.md R71; `PRI.CMP pr1, pr2` is the
word here (notes/assumptions/11.md). -/
theorem test_priCmp : answer [0x50280000] demo = some (0, 0) ∧ answer [0x50600000] demo = some (0, 2) := by decide

/-- 95_test_vectors.md V-PR-01 to V-PR-07; here NPR is 5 and PR4 is unwritten. -/
theorem test_arbSel : answer [0x5100000F] demo = some (0, 0x101) ∧ answer [0x51000004] demo = some (0, 0x102) ∧
    answer [0x51000009] demo = some (0, 0x100) ∧ answer [0x51000000] demo = some (0, 0) ∧
    answer [0x51000010] demo = some (0x10A, 0x77) ∧ answer [0x51000020] demo = some (0x109, 0x77) := by decide

/-! ### Witnesses: a state and operands that meet the hypotheses of each statement, at the boundary of every clause -/

/-- `DecodeReadsExactlyTheEncoding`: words that decode to a command with a word left over. -/
theorem witness_DecodeReadsExactlyTheEncoding : decode [0x26E007FF, 7] = .command (.dataWrb 7 7 0xFF) [7] ∧
    encode (.dataWrb 7 7 0xFF) ++ [7] = [0x26E007FF, 7] := by decide

/-- `PseudoInstructionsExpandToOneCommand`: lists of 8 and 9 bytes, and NPR = 5 and 8 (95_test_vectors.md V-EN-10 to V-EN-12). -/
theorem witness_PseudoInstructionsExpandToOneCommand :
    assembleWords (.dataLit 2 [0xAB]) = some [0x31400000, 0x000000AB] ∧ assembleWords .arbAll = some [0x510000FF] ∧
    assembleWords (.idNew 0 (.ext 0x48C0000)) = some [0x11000000, 0x048C0000] ∧
    ([1, 2, 3, 4, 5, 6, 7, 8] : List Byte).length ≤ 8 ∧ assemble (.dataLit 0 [1, 2, 3, 4, 5, 6, 7, 8, 9]) = none ∧
    inFile demo.dr 4 ∧ demo.pr.length < 8 ∧ State.reset.pr.length = 8 := by decide

/-- `PacketLengthComesFromOpcode`: one word short, and just enough, for 2, 1 and 0 operand words. -/
theorem witness_PacketLengthComesFromOpcode : decode [0x35000000, 1] = .truncated ∧
    decode [0x35000000, 1, 2] = .command (.dataFrom5 0 1 2) [] ∧ decode [0x34000000] = .truncated ∧
    decode [0x34000000, 1, 2] = .command (.dataFrom4 0 1) [2] ∧ decode [0x30000000, 1] = .command (.dataFrom0 0) [1] ∧
    decode [0x00000000, 1] = .illegal [1] := by decide

/-- `IllegalHeadersRaiseIllegalCommand`: an opcode next to assigned ones, a reserved bit, and a legal header. -/
theorem witness_IllegalHeadersRaiseIllegalCommand : (∀ m, opcode m ≠ (0x19000000 : Word).extractLsb' 24 8) ∧
    (opcode .dataNew = (0x20040001 : Word).extractLsb' 24 8 ∧ [0, 0].length = operandCount .dataNew ∧
      (0x20040001 : Word) &&& fixedMask .dataNew ≠ ((0x20040001 : Word).extractLsb' 24 8).zeroExtend 32 <<< 24) ∧
    (0x20000001 : Word) &&& fixedMask .dataNew = ((0x20000001 : Word).extractLsb' 24 8).zeroExtend 32 <<< 24 := by
  refine ⟨fun m => by cases m <;> decide, by decide, by decide⟩

/-- `StepExecutesTheDecodedCommand`: with a word left over, and with none. -/
theorem witness_StepExecutesTheDecodedCommand : (present [0x21000000, 5] demo).host = .issue [0x21000000, 5] :: [] ∧
    decode [0x21000000, 5] = .command (.dataEmpty 0) [5] ∧ decode [0x21000000] = .command (.dataEmpty 0) [] := by decide

/-- `RunOfPacketsIsTheirSequence`: a second packet behind the first. -/
theorem witness_RunOfPacketsIsTheirSequence : [(0x21000000 : Word)] ≠ [] ∧
    see (fun t => t.host) (encode (.dataEmpty 0) ++ [0x21000000]) demo = some [.issue [0x21000000]] := by decide

/-- `OnlyTruncatedPacketsStop`: both sides of the equivalence. -/
theorem witness_OnlyTruncatedPacketsStop : decode [0x38000000, 1] = .truncated ∧
    step (present [0x38000000, 1] demo) = .refused .truncatedPacket ∧
    see (fun t => t.status) [0x38000000, 1, 2] demo = some 0 := ⟨by decide, rfl, by decide⟩

/-- `WaitingAndHostReadsChangeNothing`: the reset state waits. -/
theorem witness_WaitingAndHostReadsChangeNothing : State.reset.host = [] ∧ step State.reset = .next State.reset := ⟨rfl, rfl⟩

/-- `IdWordCodec`: the words on both sides of each check. -/
theorem witness_IdWordCodec :
    ((0x7FF : Word).getLsbD 31 = false ∧ (0x7FF : Word).extractLsb' 11 20 = 0) ∧
    ((0x800 : Word).getLsbD 31 = false ∧ (0x800 : Word).extractLsb' 11 20 ≠ 0) ∧
    ((0x9FFFFFFF : Word).getLsbD 31 = true ∧ (0x9FFFFFFF : Word).extractLsb' 29 2 = 0) ∧
    ((0xA0000000 : Word).getLsbD 31 = true ∧ (0xA0000000 : Word).extractLsb' 29 2 ≠ 0) ∧
    decodeIdW 0x9FFFFFFF = .ok (.extended 0x1FFFFFFF) ∧ encodeIdW (.extended 0x1FFFFFFF) = 0x9FFFFFFF := by
  refine ⟨?_, ?_, ?_, ?_, rfl, ?_⟩ <;> decide

/-- `RawIdentifierWordsAreWidthChecked`: the last value that fits and the first that does not. -/
theorem witness_RawIdentifierWordsAreWidthChecked : (0x7FF : Word).toNat < 2 ^ 11 ∧ 2 ^ 11 ≤ (0x800 : Word).toNat ∧
    (0x1FFFFFFF : Word).toNat < 2 ^ 29 ∧ 2 ^ 29 ≤ (0x20000000 : Word).toNat := by decide

/-- `LanesArePackedLittleEndian` has no hypotheses; its lanes 3 and 4, where the words meet. -/
theorem witness_LanesArePackedLittleEndian : (lanes 0xDD000000 0x000000EE)[3] = 0xDD ∧ (lanes 0xDD000000 0x000000EE)[4] = 0xEE := by
  decide

/-- `LanesPastThePayloadAreIgnored`: words that differ past the payload alone. -/
theorem witness_LanesPastThePayloadAreIgnored :
    (∀ i < (3 : BitVec 8).toNat, i < 8 → wordLane 0x01030201 5 i = wordLane 0xFF030201 6 i) ∧
    wordLane 0x01020301 5 0 = wordLane 0xFFFFFF01 6 0 ∧ (∀ i < 2, wordLane 0x01030201 5 i = wordLane 0xFFFF0201 6 i) ∧
    (∀ i < 4, wordLane 0x04030201 5 i = wordLane 0x04030201 6 i) ∧
    (∀ i < 5, wordLane 0x04030201 5 i = wordLane 0x04030201 0x605 i) ∧
    (∀ i < 6, wordLane 0x04030201 0x605 i = wordLane 0x04030201 0x70605 i) ∧
    (∀ i < 7, wordLane 0x04030201 0x70605 i = wordLane 0x04030201 0x8070605 i) := by decide

/-- `UnpackerIsSelectedByIde`: a standard, an extended and a canonical register. -/
theorem witness_UnpackerIsSelectedByIde : (0x24600004 : IdReg).getLsbD 2 = true ∧ (0x24600000 : IdReg).getLsbD 2 = false ∧
    canonical 0xFFE00006 = true ∧ canonical 0xFFE0000C = false ∧ canonical 0x00000001 = false := by decide

/-- `ComparisonOrdersIdentifiersThenRtr`: neighbouring identifiers, and canonical registers (95_test_vectors.md V-ID-12, V-ID-13b,
V-ID-18, V-ID-19). -/
theorem witness_ComparisonOrdersIdentifiersThenRtr : ((0x122 : BitVec 11) < 0x123 ∧ cmpIdReg 0x24400004 0x24600004 = .lt) ∧
    ((7 : BitVec 29) < 8 ∧ cmpIdReg 0x0000003A 0x00000040 = .lt) ∧
    (canonical 0x00A00004 = true ∧ cmpIdReg 0x00A00004 0x00A00006 = .lt) ∧ cmpIdReg 0x00A00006 0x00C00004 = .lt ∧
    cmpIdReg 0x00A00004 0x00A00004 ≠ .gt := by decide

/-- `MixedFormatsCompareByLeftAlignedValue`: `e` at `s << 18` and on both sides of it (95_test_vectors.md V-ID-14 to V-ID-17). -/
theorem witness_MixedFormatsCompareByLeftAlignedValue :
    ((0x048C0000 : BitVec 29).toNat ≤ (0x123 : BitVec 11).toNat * 2 ^ 18 ∧ cmpIdReg 0x24600000 0x24600004 = .lt) ∧
    ((0x123 : BitVec 11).toNat * 2 ^ 18 < (0x048C0001 : BitVec 29).toNat ∧ cmpIdReg 0x24600008 0x24600004 = .gt) ∧
    ((0x048C0001 : BitVec 29).toNat / 2 ^ 18 = (0x123 : BitVec 11).toNat ∧ cmpIdReg 0x24600002 0x24600004 = .lt) ∧
    ((0x048BFFFF : BitVec 29).toNat / 2 ^ 18 ≠ (0x123 : BitVec 11).toNat ∧ cmpIdReg 0x245FFFF8 0x24600004 = .lt) := by decide

/-- `IdStdPacksAStandardIdentifier`: its packet, legal and with a reserved bit; the last register and value, and the first past each. -/
theorem witness_IdStdPacksAStandardIdentifier :
    ((0x10800000 : Word).extractLsb' 24 8 = 0x10 ∧ (0x10800000 : Word) &&& 0xFF1FFFFF = 0x10000000) ∧
    see (fun t => t.status) [0x10840000, 1] demo = some 0x108 ∧
    (inFile demo.ir 4 ∧ ¬ inFile demo.ir 5 ∧ (0x7FF : Word).extractLsb' 11 21 = 0 ∧ (0x800 : Word).extractLsb' 11 21 ≠ 0) ∧
    see (fun t => t.status) [0x10A00000, 0x800] demo = some 0x109 := by decide

/-- `IdExtPacksAnExtendedIdentifier`: the same boundaries. -/
theorem witness_IdExtPacksAnExtendedIdentifier : see (fun t => t.status) [0x11000001, 1] demo = some 0x108 ∧
    (inFile demo.ir 4 ∧ ¬ inFile demo.ir 5 ∧ (0x1FFFFFFF : Word).extractLsb' 29 3 = 0 ∧ (0x20000000 : Word).extractLsb' 29 3 ≠ 0) ∧
    see (fun t => t.status) [0x11A00000, 0x20000000] demo = some 0x109 := by decide

/-- `IdRtrReplacesTheRtrBit`: a written source, a missing register on either side, an unwritten source; a reserved bit. -/
theorem witness_IdRtrReplacesTheRtrBit : (inFile demo.ir 4 ∧ holds demo.ir 4 0xFFFFFFF8 ∧ ¬ inFile demo.ir 5 ∧
      isUnwritten demo.ir 2) ∧
    see (fun t => t.status) [0x12000002] demo = some 0x108 ∧ see (fun t => t.status) [0x12140000] demo = some 0x109 ∧
    see (fun t => t.status) [0x12080000] demo = some 0x10A := by decide

/-- `IdFlagReadsGiveTheBits`: a written, a missing and an unwritten register; a reserved bit. -/
theorem witness_IdFlagReadsGiveTheBits : (holds demo.ir 4 0xFFFFFFF8 ∧ ¬ inFile demo.ir 5 ∧ isUnwritten demo.ir 2) ∧
    see (fun t => t.status) [0x13040000] demo = some 0x108 ∧ see (fun t => t.status) [0x14A00000] demo = some 0x109 ∧
    see (fun t => t.status) [0x15400000] demo = some 0x10A := by decide

/-- `IdToIdUnpacksTheIdentifier`: a standard, an extended, a missing and an unwritten register. -/
theorem witness_IdToIdUnpacksTheIdentifier : (holds demo.ir 0 0x24600004 ∧ holds demo.ir 4 0xFFFFFFF8 ∧ ¬ inFile demo.ir 5 ∧
      isUnwritten demo.ir 2) ∧
    see (fun t => t.status) [0x16A00000] demo = some 0x109 ∧ see (fun t => t.status) [0x16400000] demo = some 0x10A := by decide

/-- `IdCmpOrdersTwoRegisters`: all three orders, a missing register and an unwritten one on either side. -/
theorem witness_IdCmpOrdersTwoRegisters : (holds demo.ir 1 0x24600000 ∧ holds demo.ir 0 0x24600004 ∧ ¬ inFile demo.ir 5 ∧
      isUnwritten demo.ir 2) ∧
    answer [0x17040000] demo = some (0, 2) ∧ see (fun t => t.status) [0x17140000] demo = some 0x109 ∧
    see (fun t => t.status) [0x17400000] demo = some 0x10A := by decide

/-- `IdRawExportsTheRegister`: the invariant holds of `demo`. -/
theorem witness_IdRawExportsTheRegister : (invariant demo = true ∧ holds demo.ir 3 0x24600002 ∧ ¬ inFile demo.ir 5 ∧
      isUnwritten demo.ir 2) ∧
    see (fun t => t.status) [0x18A00000] demo = some 0x109 ∧ see (fun t => t.status) [0x18400000] demo = some 0x10A := by decide

/-- `DataNewBuildsOrRejects`: lengths 0 and 8, then 9 and 255; a missing register. -/
theorem witness_DataNewBuildsOrRejects : (inFile demo.dr 4 ∧ (0 : Fin 9).val = (0 : BitVec 8).toNat ∧
      (8 : Fin 9).val = (8 : BitVec 8).toNat ∧ 8 < (9 : BitVec 8).toNat ∧ ¬ inFile demo.dr 5) ∧
    see (fun t => t.status) [0x20040001, 0, 0] demo = some 0x108 ∧ see (fun t => t.status) [0x200000FF, 0, 0] demo = some 1 ∧
    see (fun t => t.status) [0x20A000FF, 0, 0] demo = some 0x109 := by decide

/-- `DataEmptyBuildsTheEmptyPayload`: an existing and a missing register. -/
theorem witness_DataEmptyBuildsTheEmptyPayload : (inFile demo.dr 4 ∧ ¬ inFile demo.dr 5) ∧
    see (fun t => t.status) [0x21040000] demo = some 0x108 ∧ see (fun t => t.status) [0x21A00000] demo = some 0x109 := by decide

/-- `DataFromBuildsFixedLengths`: an existing and a missing register, the first and the last form. -/
theorem witness_DataFromBuildsFixedLengths : (inFile demo.dr 4 ∧ ¬ inFile demo.dr 5) ∧
    see (fun t => t.status) [0x30A00000] demo = some 0x109 ∧ see (fun t => t.status) [0x38A00000, 0, 0] demo = some 0x109 ∧
    see (fun t => t.status) [0x38000001, 0, 0] demo = some 0x108 := by decide

/-- `DataLengthIsRead`: lengths 0 and 8, a missing and an unwritten register. -/
theorem witness_DataLengthIsRead : (holds demo.dr 4 ⟨0, #v[0, 0, 0, 0, 0, 0, 0, 0]⟩ ∧
      holds demo.dr 3 ⟨8, #v[1, 2, 3, 4, 5, 6, 7, 8]⟩ ∧ ¬ inFile demo.dr 5 ∧ isUnwritten demo.dr 2) ∧
    see (fun t => t.status) [0x22A00000] demo = some 0x109 ∧ see (fun t => t.status) [0x23400000] demo = some 0x10A := by decide

/-- `DataViewShowsTheBoundedView`: an empty payload, a missing and an unwritten register. -/
theorem witness_DataViewShowsTheBoundedView : (holds demo.dr 4 ⟨0, #v[0, 0, 0, 0, 0, 0, 0, 0]⟩ ∧ ¬ inFile demo.dr 5 ∧
      isUnwritten demo.dr 2) ∧
    see outputs [0x24800000] demo = some (0, 0, 0, 0) ∧ see (fun t => t.status) [0x24A00000] demo = some 0x109 := by decide

/-- `DataRdbReadsOneLane`: the last lane of the view and the first past it. -/
theorem witness_DataRdbReadsOneLane : (holds demo.dr 0 ⟨2, #v[0xAA, 0xCC, 0, 0, 0, 0, 0, 0]⟩ ∧ (1 : BitVec 3).toNat < 2 ∧
      2 ≤ (2 : BitVec 3).toNat ∧ ¬ inFile demo.dr 5 ∧ isUnwritten demo.dr 2) ∧
    see (fun t => t.status) [0x25000200] demo = some 0x10B ∧ see (fun t => t.status) [0x25A00200] demo = some 0x109 ∧
    see (fun t => t.status) [0x25400200] demo = some 0x10A := by decide

/-- `DataWrbWritesOneLane`: the same boundaries. -/
theorem witness_DataWrbWritesOneLane : (holds demo.dr 0 ⟨2, #v[0xAA, 0xCC, 0, 0, 0, 0, 0, 0]⟩ ∧ (1 : BitVec 3).toNat < 2 ∧
      2 ≤ (2 : BitVec 3).toNat ∧ ¬ inFile demo.dr 5 ∧ isUnwritten demo.dr 2) ∧
    see (fun t => t.status) [0x26A00200] demo = some 0x109 ∧ see (fun t => t.status) [0x26400200] demo = some 0x10A := by decide

/-- `DataEqComparesBoundedViews`: equal payloads, a missing register and an unwritten one on either side. -/
theorem witness_DataEqComparesBoundedViews : (holds demo.dr 0 ⟨2, #v[0xAA, 0xCC, 0, 0, 0, 0, 0, 0]⟩ ∧
      holds demo.dr 1 ⟨2, #v[0xAA, 0xCC, 0, 0, 0, 0, 0, 0]⟩ ∧ ¬ inFile demo.dr 5 ∧ isUnwritten demo.dr 2) ∧
    see (fun t => t.status) [0x27140000] demo = some 0x109 ∧ see (fun t => t.status) [0x27080000] demo = some 0x10A := by decide

/-- `FrmNewdFormatsADataFrame`: a valid and an invalid Id word, missing registers, an unwritten payload. -/
theorem witness_FrmNewdFormatsADataFrame : (inFile demo.fr 4 ∧ holds demo.dr 3 ⟨8, #v[1, 2, 3, 4, 5, 6, 7, 8]⟩ ∧
      idRegOfIdW 0x7FF = some 0xFFE00004 ∧ idRegOfIdW 0x800 = none ∧ ¬ inFile demo.fr 5 ∧ isUnwritten demo.dr 2) ∧
    see (fun t => t.status) [0x40A00000, 0x800] demo = some 0x109 ∧
    see (fun t => t.status) [0x40140000, 0x800] demo = some 0x109 ∧ see (fun t => t.status) [0x40000001, 0] demo = some 0x108 := by
  decide

/-- `FrmNewrFormatsARemoteFrame`: DLC 0 and 7, then 8 and 255; a valid and an invalid Id word; a missing register. -/
theorem witness_FrmNewrFormatsARemoteFrame : (inFile demo.fr 4 ∧ idRegOfIdW 0x9FFFFFFF = some 0xFFFFFFF8 ∧
      idRegOfIdW 0xA0000000 = none ∧ (7 : Fin 9).val = (7 : BitVec 8).toNat ∧ 8 ≤ (8 : BitVec 8).toNat ∧ ¬ inFile demo.fr 5) ∧
    see (fun t => t.status) [0x41000000, 0x7FF] demo = some 0 ∧ see (fun t => t.status) [0x410000FF, 0x80000000] demo = some 2 ∧
    see (fun t => t.status) [0x41A00008, 0x800] demo = some 0x109 := by decide

/-- `FrmClassificationReadsTheFlags`: a written, a missing and an unwritten register, and a valid Id word. -/
theorem witness_FrmClassificationReadsTheFlags : (holds demo.fr 4 ⟨0x00000006, ⟨0, #v[0, 0, 0, 0, 0, 0, 0, 0]⟩⟩ ∧
      ¬ inFile demo.fr 5 ∧ isUnwritten demo.fr 2 ∧ idRegOfIdW 0 = some 4) ∧
    see (fun t => t.status) [0x42A00000] demo = some 0x109 ∧ see (fun t => t.status) [0x45400000] demo = some 0x10A := by decide

/-- `FrmIdAndDlcAreRead`: a data and a remote frame of a given Id word, a missing and an unwritten register. -/
theorem witness_FrmIdAndDlcAreRead : (invariant demo = true ∧ idRegOfIdW 0x123 = some 0x24600004 ∧
      holds demo.fr 0 ⟨0x24600004, ⟨3, #v[1, 2, 3, 0, 0, 0, 0, 0]⟩⟩ ∧ idRegOfIdW 0x92345678 = some 0x91A2B3C0 ∧
      holds demo.fr 1 ⟨0x91A2B3C0 ||| 2, ⟨7, #v[0, 0, 0, 0, 0, 0, 0, 0]⟩⟩ ∧ (0x91A2B3C2 : Word).getLsbD 1 = true ∧
      ¬ inFile demo.fr 5 ∧ isUnwritten demo.fr 2) ∧
    see (fun t => t.status) [0x46A00000] demo = some 0x109 ∧ see (fun t => t.status) [0x47400000] demo = some 0x10A := by decide

/-- `FrmDataCopiesADataFramesPayload`: a data frame, a remote frame, missing registers, an unwritten frame. -/
theorem witness_FrmDataCopiesADataFramesPayload : (inFile demo.dr 4 ∧
      holds demo.fr 0 ⟨0x24600004, ⟨3, #v[1, 2, 3, 0, 0, 0, 0, 0]⟩⟩ ∧ (0x24600004 : Word).getLsbD 1 = false ∧
      holds demo.fr 4 ⟨0x00000006, ⟨0, #v[0, 0, 0, 0, 0, 0, 0, 0]⟩⟩ ∧ (0x00000006 : Word).getLsbD 1 = true ∧
      ¬ inFile demo.dr 5 ∧ ¬ inFile demo.fr 5 ∧ isUnwritten demo.fr 2) ∧
    see (fun t => t.status) [0x48A00000] demo = some 0x109 ∧ see (fun t => t.status) [0x48140000] demo = some 0x109 ∧
    see (fun t => t.status) [0x48080000] demo = some 0x10A := by decide

/-- `FrmPrioCopiesTheKey`: a written frame, missing registers, an unwritten frame. -/
theorem witness_FrmPrioCopiesTheKey : (inFile demo.pr 4 ∧ holds demo.fr 4 ⟨0x00000006, ⟨0, #v[0, 0, 0, 0, 0, 0, 0, 0]⟩⟩ ∧
      ¬ inFile demo.pr 5 ∧ ¬ inFile demo.fr 5 ∧ isUnwritten demo.fr 2) ∧
    see (fun t => t.status) [0x49A00000] demo = some 0x109 ∧ see (fun t => t.status) [0x49140000] demo = some 0x109 := by decide

/-- `PriCmpOrdersTwoKeys`: all three orders, a missing register and an unwritten one. -/
theorem witness_PriCmpOrdersTwoKeys : (holds demo.pr 3 0xFFFFFFF8 ∧ holds demo.pr 0 0x24600004 ∧ ¬ inFile demo.pr 5 ∧
      isUnwritten demo.pr 4) ∧
    answer [0x500C0000] demo = some (0, 1) ∧ see (fun t => t.status) [0x50140000] demo = some 0x109 ∧
    see (fun t => t.status) [0x50100000] demo = some 0x10A := by decide

/-- The four lowest keys of `demo` are written. -/
theorem demo_keys_written : ∀ i, (0x0F : BitVec 8).getLsbD i = true → ∃ p, demo.pr[i]? = some (some p)
  | 0, _ => ⟨_, rfl⟩
  | 1, _ => ⟨_, rfl⟩
  | 2, _ => ⟨_, rfl⟩
  | 3, _ => ⟨_, rfl⟩
  | n + 4, h => by
    rcases n with _ | _ | _ | _ | n
    · simp at h
    · simp at h
    · simp at h
    · simp at h
    · rw [BitVec.getLsbD_of_ge _ _ (by omega)] at h
      cases h

/-- `ArbSelPicksTheLeastKey`: written candidates, a missing one, an unwritten one among existing ones. -/
theorem witness_ArbSelPicksTheLeastKey : (0x0F : BitVec 8) ≠ 0 ∧
    (∀ i, (0x0F : BitVec 8).getLsbD i = true → ∃ p, demo.pr[i]? = some (some p)) ∧
    ((0x80 : BitVec 8).getLsbD 7 = true ∧ demo.pr.length ≤ 7) ∧
    ((0x10 : BitVec 8).getLsbD 4 = true ∧ demo.pr[4]? = some none ∧ 4 < demo.pr.length) :=
  ⟨by decide, demo_keys_written, by decide, by decide⟩

/-- `RepeatedArbitrationSorts`: its hypothesis, and 43_priority.md R223's order of the scenario of R222. -/
theorem witness_RepeatedArbitrationSorts : (∀ i, (0x0F : BitVec 8).getLsbD i = true → ∃ p, demo.pr[i]? = some (some p)) ∧
    arbSort 8 7 { demo with pr := [some 0xFFE00004, some 0xFFFFFFF8, some 0x00000004] } = [2, 0, 1] ∧
    arbSort 8 0x0F demo = [1, 2, 0, 3] := ⟨demo_keys_written, by decide, by decide⟩

/-- `ErrorsAreReportedInPriorityOrder`: an illegal packet, and two commands that meet several conditions (95_test_vectors.md
V-EX-01, V-EX-02). -/
theorem witness_ErrorsAreReportedInPriorityOrder : (present [0xFF000000] demo).host = .issue [0xFF000000] :: [] ∧
    decode [0xFF000000] = .illegal [] ∧ reportedCode demo (.idStd 5 0x800) = 9 ∧ reportedCode demo (.frmNewd 0 2 0x40000000) = 3 ∧
    reportedCode demo (.dataRdb 2 7) = 10 := by decide

/-- `ErrorsChangeOnlyStatus`: a rejection, a fault and an illegal packet. -/
theorem witness_ErrorsChangeOnlyStatus : nextOf (fun t => codeOf t.status) (exec (.dataNew 0 9 0 0) demo) = some 1 ∧
    nextOf (fun t => codeOf t.status) (exec (.dataRdb 4 0) demo) = some 11 ∧ decode [0x00000000, 5] = .illegal [5] := by decide

/-- `FaultFlagIsSticky`: FAULT set and clear before a command, and a reset. -/
theorem witness_FaultFlagIsSticky :
    (∀ ws acts, (present [0x21000000] { demo with status := 0x108 }).host ≠ .reset ws :: acts) ∧
    (faultOf 0x108 = true ∧ see (fun t => faultOf t.status) [0x21000000] { demo with status := 0x108 } = some true) ∧
    (faultOf demo.status = false ∧ see (fun t => faultOf t.status) [0x20000009, 0, 0] demo = some false ∧
      see (fun t => faultOf t.status) [0x22400000] demo = some true) ∧
    nextOf (fun t => faultOf t.status) (step { demo with status := 0x108, host := [.reset []] }) = some false :=
  ⟨fun _ _ h => (nomatch h), by decide, by decide, by decide⟩

/-- `StatusCodesComeFromTheirCommands`: each code that a command reports is reported by some command. -/
theorem witness_StatusCodesComeFromTheirCommands : decode [0x39000000] = .illegal [] ∧
    nextOf (fun t => codeOf t.status) (exec (.dataNew 0 9 0 0) demo) = some 1 ∧
    nextOf (fun t => codeOf t.status) (exec (.frmNewr 0 8 0) demo) = some 2 ∧
    nextOf (fun t => codeOf t.status) (exec (.idExt 0 0x20000000) demo) = some 3 ∧
    nextOf (fun t => codeOf t.status) (exec (.arbSel 0x20) demo) = some 9 ∧
    nextOf (fun t => codeOf t.status) (exec (.arbSel 0x10) demo) = some 10 ∧
    nextOf (fun t => codeOf t.status) (exec (.dataWrb 4 0 0) demo) = some 11 := by decide

/-- `IndexRangeMeansNoSuchRegister`: the reference sizes. -/
theorem witness_IndexRangeMeansNoSuchRegister : State.reset.sizes = ⟨8, 8, 8, 8⟩ ∧
    nextOf (fun t => codeOf t.status) (exec (.arbSel 0xFF) State.reset) = some 10 := by decide

/-- `ClaimedRunsEndAtTheFirstFault`: a fault, a rejection and a completion (95_test_vectors.md P3 steps 1, 2 and 12). -/
theorem witness_ClaimedRunsEndAtTheFirstFault :
    (see (fun t => codeOf t.status) [0x24400000] demo = some 10 ∧ claimStep (present [0x24400000] demo) = .fault .unwritten) ∧
    (see (fun t => codeOf t.status) [0x20000009, 0, 0] demo = some 1 ∧
      nextOf (fun t => t.status) (claimStep (present [0x20000009, 0, 0] demo)) = some 1) ∧
    (noFault demo = true ∧ nextOf (fun t => t.status) (claimStep (present [0x22000000] demo)) = some 0) :=
  ⟨⟨by decide, rfl⟩, by decide, by decide⟩

/-- `ReadOnlyCommandsRepeat`: a read-only command. -/
theorem witness_ReadOnlyCommandsRepeat : readOnly (.dataView 3) = true ∧
    nextOf (fun t => t.dr) (exec (.dataView 3) demo) = some demo.dr := by decide

/-- `CommandsKeepTheirFrame`: a command that writes one register, one that writes results, and one that writes neither. -/
theorem witness_CommandsKeepTheirFrame : nextOf (fun t => t.dr) (exec (.dataFrom1 2 7) demo) =
      some (demo.dr.set 2 (some ⟨1, #v[7, 0, 0, 0, 0, 0, 0, 0]⟩)) ∧
    (destination (.frmData 2 1) = .inDr 2 ∧ resultCount (.frmData 2 1) = 1 ∧
      nextOf (fun t => (t.dr, t.res0, t.res1)) (exec (.frmData 2 1) demo) = some (demo.dr, 0, 0x88)) ∧
    (resultCount (.frmPrio 4 0) = 0 ∧ nextOf outputs (exec (.frmPrio 4 0) demo) = some (0, 0x77, 0x88, 0x99)) := by decide

/-- `CopiesAreIndependentOfTheirSource`: both copies (95_test_vectors.md V-FR-09, V-FR-10). -/
theorem witness_CopiesAreIndependentOfTheirSource :
    (∃ t fr old, exec (.frmNewd 2 3 0x123) demo = .next t ∧ holds t.fr 2 fr ∧ holds t.dr 3 old ∧ (7 : BitVec 3).toNat < old.len.val) ∧
    (∃ t, exec (.frmPrio 4 3) demo = .next t ∧ holds t.pr 4 0xFFFFFFF8 ∧ inFile t.fr 3 ∧
      holds t.dr 0 ⟨2, #v[0xAA, 0xCC, 0, 0, 0, 0, 0, 0]⟩ ∧ idRegOfIdW 0 = some 4) :=
  ⟨⟨_, _, _, rfl, rfl, rfl, by decide⟩, ⟨_, rfl, rfl, by decide, rfl, by decide⟩⟩

/-- A state whose Data and remote frame hold other hidden lanes than `visibleLanes`. -/
def hiddenLanes : State :=
  { demo with dr := [some ⟨1, #v[7, 9, 9, 9, 9, 9, 9, 9]⟩, none], fr := [some ⟨6, ⟨2, #v[5, 5, 5, 5, 5, 5, 5, 5]⟩⟩] }

/-- The same state with other hidden lanes. -/
def visibleLanes : State :=
  { demo with dr := [some ⟨1, #v[7, 0, 0, 0, 0, 0, 0, 0]⟩, none], fr := [some ⟨6, ⟨2, #v[0, 0, 0, 0, 0, 0, 0, 0]⟩⟩] }

/-- `HiddenLanesNeverReachTheOutputs`: two different states that differ in hidden lanes alone. -/
theorem witness_HiddenLanesNeverReachTheOutputs : sameButHidden hiddenLanes visibleLanes ∧ hiddenLanes ≠ visibleLanes := by
  refine ⟨⟨rfl, .cons ⟨rfl, fun i h => ?_⟩ (.cons trivial .nil), .cons ⟨rfl, rfl, fun h => ?_⟩ .nil, rfl, rfl, rfl⟩, by decide⟩
  · obtain rfl : i = 0 := Fin.ext (Nat.lt_one_iff.mp h)
    rfl
  · exact absurd h (by decide)

/-- `KeysAreObservableOnlyByOrder`: two different files with the same order. -/
theorem witness_KeysAreObservableOnlyByOrder : sameOrder [some 4, none, some 8] [some 8, none, some 0x10] ∧
    nextOf outputs (exec (.arbSel 5) { demo with pr := [some 4, none, some 8] }) =
      nextOf outputs (exec (.arbSel 5) { demo with pr := [some 8, none, some 0x10] }) := by
  refine ⟨⟨rfl, ?_, ?_⟩, by decide⟩
  · rintro (_ | _ | _ | i) <;> simp
  · rintro (_ | _ | _ | i) (_ | _ | _ | j) x y x' y' h1 h2 h3 h4 <;> simp at h1 h2 h3 h4 <;> subst h1 h2 h3 h4 <;> decide

/-- `DataLaws`: lengths 8 and 9, and a command that changes a length. -/
theorem witness_DataLaws : inFile demo.dr 4 ∧ (8 : Fin 9).val = (8 : BitVec 8).toNat ∧ 9 ≤ (9 : BitVec 8).toNat ∧
    ∃ t, exec (.dataEmpty 0) demo = .next t ∧ holds demo.dr 0 ⟨2, #v[0xAA, 0xCC, 0, 0, 0, 0, 0, 0]⟩ ∧
      holds t.dr 0 ⟨0, Vector.replicate 8 0⟩ := ⟨by decide, rfl, by decide, _, rfl, rfl, by decide⟩

/-- `FrameLaws`: DLC 7 and 8, a written payload and a valid Id word. -/
theorem witness_FrameLaws : inFile demo.fr 4 ∧ inFile demo.dr 4 ∧ idRegOfIdW 0x7FF ≠ none ∧ (7 : BitVec 8).toNat < 8 ∧
    8 ≤ (8 : BitVec 8).toNat ∧ holds demo.dr 3 ⟨8, #v[1, 2, 3, 4, 5, 6, 7, 8]⟩ := by decide

/-- `StepKeepsTheInvariant`: a state that meets the invariant and takes a step. -/
theorem witness_StepKeepsTheInvariant : invariant (present [0x404C0000, 0x00000123] demo) = true ∧
    see invariant [0x404C0000, 0x00000123] demo = some true := by decide

/-- `ResetStateHoldsTheSpecsValues`: the last register of each file. -/
theorem witness_ResetStateHoldsTheSpecsValues : 7 < (⟨8, 8, 8, 8⟩ : Sizes).nir ∧ State.reset.ir[7]? = some none ∧
    State.reset.pr[7]? = some none ∧ State.reset.pr[8]? = none := by decide

/-- `ResetAloneUnwritesRegisters`: a step other than a reset from a state with FAULT set and written registers. -/
theorem witness_ResetAloneUnwritesRegisters :
    (∀ ws acts, (present [0x21000000] { demo with status := 0x108 }).host ≠ .reset ws :: acts) ∧
    see (fun t => (faultOf t.status, t.ir[0]?)) [0x21000000] { demo with status := 0x108 } = some (true, some (some 0x24600004)) ∧
    (holds demo.ir 4 0xFFFFFFF8 ∧ holds demo.dr 4 ⟨0, #v[0, 0, 0, 0, 0, 0, 0, 0]⟩ ∧
      holds demo.fr 4 ⟨0x00000006, ⟨0, #v[0, 0, 0, 0, 0, 0, 0, 0]⟩⟩ ∧ holds demo.pr 3 0xFFFFFFF8) :=
  ⟨fun _ _ h => (nomatch h), by decide, by decide⟩

end Sys2Proof.Tests
end

section
/-!
The invariant of the block (00_scope.md R7; 10_state.md R25, R28, R29, R30, R37; 42_frame.md R191): a rule for each register
write, for the values the datapaths build and for the end of a command, then one lemma per command and the step.
-/

namespace Sys2Proof.Machine

open Sys2Proof.Safety

/-! ### What a step can do -/

/-- Everything a step to a next state can do, by the host's next action. -/
theorem step_next_cases {s t : State} (h : step s = .next t) :
    (s.host = [] ∧ t = s) ∨
    (∃ p acts, s.host = .read p :: acts ∧ t = { s with host := acts }) ∨
    (∃ ws acts, s.host = .reset ws :: acts ∧ t = State.takeReset { s with host := acts }) ∨
    ∃ ws acts, s.host = .issue ws :: acts ∧
      ((decode ws = .nothing ∧ t = { s with host := acts }) ∨
        (∃ rest, decode ws = .illegal rest ∧ t = State.raise { s with host := presentRest rest acts } .illegalCommand) ∨
        ∃ i rest, decode ws = .command i rest ∧ exec i { s with host := presentRest rest acts } = .next t) := by
  unfold step at h
  split at h
  case h_1 hh => exact .inl ⟨hh, by simpa using h.symm⟩
  case h_2 p acts hh => exact .inr (.inl ⟨p, acts, hh, by simpa using h.symm⟩)
  case h_3 ws acts hh => exact .inr (.inr (.inl ⟨ws, acts, hh, by simpa using h.symm⟩))
  case h_4 ws acts hh =>
    refine .inr (.inr (.inr ⟨ws, acts, hh, ?_⟩))
    split at h
    case h_1 i rest hd => exact .inr (.inr ⟨i, rest, hd, h⟩)
    case h_2 rest hd => exact .inr (.inl ⟨rest, hd, by simpa using h.symm⟩)
    case h_3 => cases h
    case h_4 hd => exact .inl ⟨hd, by simpa using h.symm⟩

/-! ### The values of a register file -/

theorem allWritten_iff {α : Type} {p : α → Bool} {file : List (Option α)} :
    allWritten p file = true ↔ ∀ v, some v ∈ file → p v = true := by
  simp only [allWritten, List.all_eq_true]
  exact ⟨fun h v hv => h _ hv, fun h o ho => by cases o with
    | none => rfl
    | some v => exact h v ho⟩

theorem allWritten_writeReg {α : Type} {p : α → Bool} {file : List (Option α)} {v : α} (i : Nat)
    (hf : allWritten p file = true) (hv : p v = true) : allWritten p (writeReg file i v) = true :=
  allWritten_iff.mpr fun w hw => by
    rcases mem_writeReg hw with he | hm
    · cases he
      exact hv
    · exact allWritten_iff.mp hf w hm

theorem allWritten_replicate_none {α : Type} (p : α → Bool) (n : Nat) :
    allWritten p (List.replicate n none) = true := by simp [allWritten]

/-- A value read from a file has the property of the file's written registers. -/
theorem of_readReg {α : Type} {p : α → Bool} {file : List (Option α)} {i : Nat} {v : α}
    (hf : allWritten p file = true) (hr : readReg file i = .ok v) : p v = true :=
  allWritten_iff.mp hf v (List.mem_of_getElem? (readReg_eq_ok.mp hr))

/-! ### The invariant and its part about the registers -/

/-- The invariant without STATUS: legal file sizes and a legal value in every written register. -/
structure RegistersLegal (s : State) : Prop where
  sizes : s.sizes.legal = true
  ir : allWritten canonical s.ir = true
  dr : allWritten tailZero s.dr = true
  fr : allWritten wellBuilt s.fr = true
  pr : allWritten canonical s.pr = true

theorem invariant_iff {s : State} : invariant s = true ↔ RegistersLegal s ∧ statusLegal s.status = true := by
  simp only [invariant, Bool.and_eq_true]
  constructor
  · rintro ⟨⟨⟨⟨⟨hz, hi⟩, hd⟩, hf⟩, hp⟩, hs⟩
    exact ⟨⟨hz, hi, hd, hf, hp⟩, hs⟩
  · rintro ⟨⟨hz, hi, hd, hf, hp⟩, hs⟩
    exact ⟨⟨⟨⟨⟨hz, hi⟩, hd⟩, hf⟩, hp⟩, hs⟩

namespace RegistersLegal

variable {s : State} (h : RegistersLegal s)
include h

/-- The host's actions, STATUS and the results play no part in the registers' legality. -/
theorem of_same_files {t : State} (hi : t.ir = s.ir) (hd : t.dr = s.dr) (hf : t.fr = s.fr) (hp : t.pr = s.pr) :
    RegistersLegal t where
  sizes := by simpa [State.sizes, hi, hd, hf, hp] using h.sizes
  ir := hi ▸ h.ir
  dr := hd ▸ h.dr
  fr := hf ▸ h.fr
  pr := hp ▸ h.pr

theorem withHost (acts : List HostAction) : RegistersLegal { s with host := acts } := h.of_same_files rfl rfl rfl rfl

theorem setRes0 (w : Word) : RegistersLegal (s.setRes0 w) := h.of_same_files rfl rfl rfl rfl

theorem setRes (w0 w1 w2 : Word) : RegistersLegal (s.setRes w0 w1 w2) := h.of_same_files rfl rfl rfl rfl

theorem writeIr (i : RegIdx) {r : IdReg} (hr : canonical r = true) : RegistersLegal (s.writeIr i r) where
  sizes := by simpa [State.sizes] using h.sizes
  ir := allWritten_writeReg _ h.ir hr
  dr := h.dr
  fr := h.fr
  pr := h.pr

theorem writeDr (i : RegIdx) {d : Data} (hd : tailZero d = true) : RegistersLegal (s.writeDr i d) where
  sizes := by simpa [State.sizes] using h.sizes
  ir := h.ir
  dr := allWritten_writeReg _ h.dr hd
  fr := h.fr
  pr := h.pr

theorem writeFr (i : RegIdx) {f : Frame} (hf : wellBuilt f = true) : RegistersLegal (s.writeFr i f) where
  sizes := by simpa [State.sizes] using h.sizes
  ir := h.ir
  dr := h.dr
  fr := allWritten_writeReg _ h.fr hf
  pr := h.pr

theorem writePr (i : RegIdx) {p : FramePriority} (hp : canonical p = true) : RegistersLegal (s.writePr i p) where
  sizes := by simpa [State.sizes] using h.sizes
  ir := h.ir
  dr := h.dr
  fr := h.fr
  pr := allWritten_writeReg _ h.pr hp

theorem takeReset : RegistersLegal s.takeReset where
  sizes := by simpa [State.sizes] using h.sizes
  ir := allWritten_replicate_none _ _
  dr := allWritten_replicate_none _ _
  fr := allWritten_replicate_none _ _
  pr := allWritten_replicate_none _ _

end RegistersLegal

/-! ### STATUS after a command -/

theorem statusLegal_statusAfterOk (st : Word) : statusLegal (statusAfterOk st) = true := by
  unfold statusAfterOk
  cases statusFault st <;> decide

theorem statusLegal_statusAfterError (e : ErrorCode) (st : Word) : statusLegal (statusAfterError e st) = true := by
  unfold statusAfterError
  cases e <;> cases statusFault st <;> decide

theorem invariant_complete {s : State} (h : RegistersLegal s) : invariant s.complete = true :=
  invariant_iff.mpr ⟨h.of_same_files rfl rfl rfl rfl, statusLegal_statusAfterOk _⟩

theorem invariant_raise {s : State} (h : RegistersLegal s) (e : ErrorCode) : invariant (s.raise e) = true :=
  invariant_iff.mpr ⟨h.of_same_files rfl rfl rfl rfl, statusLegal_statusAfterError _ _⟩

/-! ### The values the datapaths build -/

/-- A canonical IdReg, bit by bit (10_state.md R25). -/
theorem canonical_iff {r : IdReg} : canonical r = true ↔
    r.getLsbD 0 = false ∧ (r.getLsbD 2 = true → ∀ i, i < 18 → r.getLsbD (3 + i) = false) := by
  have hx : r.extractLsb' 3 18 = 0 ↔ ∀ i, i < 18 → r.getLsbD (3 + i) = false :=
    ⟨fun h i hi => by simpa [hi] using congrArg (·.getLsbD i) h,
      fun h => BitVec.eq_of_getLsbD_eq fun i hi => by simp [hi, h i hi]⟩
  simp only [canonical, Bool.and_eq_true, Bool.or_eq_true, Bool.not_eq_true', beq_iff_eq, hx]
  cases r.getLsbD 2 <;> simp

theorem canonical_packStd (v : BitVec 11) : canonical (packStd v) = true :=
  canonical_iff.mpr ⟨by simp [packStd], fun _ i hi => by interval_cases i <;> simp [packStd]⟩

theorem canonical_packExt (v : BitVec 29) : canonical (packExt v) = true :=
  canonical_iff.mpr ⟨by simp [packExt], fun h => by simp [packExt] at h⟩

theorem canonical_idRegOf (id : Id) : canonical (idRegOf id) = true := by
  cases id with
  | standard v => exact canonical_packStd v
  | extended v => exact canonical_packExt v

theorem getLsbD_setRtr_of_ne (r : IdReg) (f : BitVec 1) {i : Nat} (hi : i ≠ 1) :
    (setRtr r f).getLsbD i = r.getLsbD i := by
  by_cases hw : i < 32
  · interval_cases i <;> simp_all [setRtr]
  · rw [BitVec.getLsbD_of_ge _ _ (Nat.le_of_not_lt hw), BitVec.getLsbD_of_ge _ _ (Nat.le_of_not_lt hw)]

theorem canonical_setRtr {r : IdReg} (f : BitVec 1) (h : canonical r = true) : canonical (setRtr r f) = true := by
  obtain ⟨h0, h20⟩ := canonical_iff.mp h
  rw [canonical_iff, getLsbD_setRtr_of_ne r f (by decide), getLsbD_setRtr_of_ne r f (by decide)]
  exact ⟨h0, fun h2 i hi => (getLsbD_setRtr_of_ne r f (by omega)).trans (h20 h2 i hi)⟩

theorem rtr_bit_idRegOf (id : Id) : (idRegOf id).getLsbD 1 = false := by
  cases id <;> simp [idRegOf, packStd, packExt]

theorem tailZero_iff {d : Data} : tailZero d = true ↔ ∀ i : Fin 8, d.len.val ≤ i.val → d.buf[i] = 0 := by
  simp [tailZero]

theorem tailZero_mkData (n : Fin 9) (l : Vector Byte 8) : tailZero (mkData n l) = true :=
  tailZero_iff.mpr fun i hi => (mkData_lane n l i).trans (if_neg (Nat.not_lt.mpr hi))

theorem tailZero_emptyData : tailZero emptyData = true := tailZero_mkData _ _

/-- A write of a lane below the length leaves the tail as it is. -/
theorem tailZero_set_lane {d : Data} {idx : BitVec 3} (b : Byte) (hv : checkView d idx = .ok ()) (h : tailZero d = true) :
    tailZero { d with buf := d.buf.set (laneIndex idx) b } = true :=
  tailZero_iff.mpr fun i hi => by
    have hlane : (laneIndex idx).val < d.len.val := checkView_eq_ok.mp hv
    have hne : (laneIndex idx).val ≠ i.val := Nat.ne_of_lt (Nat.lt_of_lt_of_le hlane hi)
    exact (Vector.getElem_set_ne (laneIndex idx).isLt i.isLt hne).trans (tailZero_iff.mp h i hi)

theorem wellBuilt_iff {f : Frame} : wellBuilt f = true ↔
    canonical f.id = true ∧ tailZero f.data = true ∧
      (f.id.getLsbD 1 = true → f.data.len.val ≤ 7 ∧ f.data.buf = Vector.replicate 8 0) := by
  simp only [wellBuilt, Bool.and_eq_true, Bool.or_eq_true, Bool.not_eq_true', beq_iff_eq, decide_eq_true_eq, and_assoc]
  cases f.id.getLsbD 1 <;> simp

/-- `FRM.NEWD` builds a well-built data frame (42_frame.md R181, R191). -/
theorem wellBuilt_dataFrame (id : Id) {d : Data} (h : tailZero d = true) : wellBuilt ⟨idRegOf id, d⟩ = true :=
  wellBuilt_iff.mpr ⟨canonical_idRegOf id, h, fun hr => absurd hr (ne_true_of_eq_false (rtr_bit_idRegOf id))⟩

theorem remoteData_buf (n : Fin 9) : (remoteData n).buf = Vector.replicate 8 0 :=
  (by decide : emptyData.buf = Vector.replicate 8 0)

/-- `FRM.NEWR` builds a well-built remote frame (42_frame.md R182, R191). -/
theorem wellBuilt_remoteFrame (id : Id) {n : Fin 9} (hn : n.val ≤ 7) :
    wellBuilt ⟨setRtr (idRegOf id) 1, remoteData n⟩ = true :=
  wellBuilt_iff.mpr ⟨canonical_setRtr 1 (canonical_idRegOf id),
    tailZero_iff.mpr fun i _ => by simp [remoteData_buf], fun _ => ⟨hn, remoteData_buf n⟩⟩

theorem le_of_remoteDlc {dlc : BitVec 8} {n : Fin 9} (h : remoteDlc dlc = .ok n) : n.val ≤ 7 := by
  unfold remoteDlc at h
  split at h
  case isTrue hlt =>
    cases h
    exact Nat.le_of_lt_succ hlt
  case isFalse => cases h

/-! ### Commands -/

/-- An outcome whose next state, if it is one, meets the invariant. -/
def ReachesInvariant (r : Host.Outcome State Fault Refusal) : Prop := ∀ t, r = .next t → invariant t = true

/-- A computation of a command that leaves legal registers if it succeeds. -/
def LeavesLegal (r : Except ErrorCode State) : Prop := ∀ u, r = .ok u → RegistersLegal u

theorem LeavesLegal.bind {α : Type} {x : Except ErrorCode α} {f : α → Except ErrorCode State}
    (h : ∀ v, x = .ok v → LeavesLegal (f v)) : LeavesLegal (x >>= f) := fun u hu => by
  obtain ⟨v, hv, hf⟩ := except_bind_eq_ok.mp hu
  exact h v hv u hf

theorem LeavesLegal.ret {s : State} (h : RegistersLegal s) : LeavesLegal (pure s) := fun u hu => by
  cases hu
  exact h

theorem LeavesLegal.error (e : ErrorCode) : LeavesLegal (throw e) := fun _ hu => nomatch hu

section
variable {s : State} (h : RegistersLegal s)
include h

theorem reachesInvariant_conclude {r : Except ErrorCode State} (hr : LeavesLegal r) :
    ReachesInvariant (conclude s r) := fun t ht => by
  rcases conclude_cases ht with ⟨u, hu, rfl⟩ | ⟨e, -, rfl⟩
  · exact invariant_complete (hr u hu)
  · exact invariant_raise h e

theorem reachesInvariant_readToRes0 {α : Type} (file : List (Option α)) (a : RegIdx) (f : α → Word) :
    ReachesInvariant (readToRes0 file a f s) :=
  reachesInvariant_conclude h (.bind fun _ _ => .bind fun _ _ => .ret (h.setRes0 _))

theorem reachesInvariant_readTwoToRes0 {α : Type} (file : List (Option α)) (a b : RegIdx) (f : α → α → Word) :
    ReachesInvariant (readTwoToRes0 file a b f s) :=
  reachesInvariant_conclude h
    (.bind fun _ _ => .bind fun _ _ => .bind fun _ _ => .bind fun _ _ => .ret (h.setRes0 _))

theorem reachesInvariant_dataFrom (k : Fin 9) (a : RegIdx) (w1 w2 : Word) : ReachesInvariant (dataFrom k a w1 w2 s) :=
  reachesInvariant_conclude h (.bind fun _ _ => .ret (h.writeDr a (tailZero_mkData _ _)))

theorem reachesInvariant_idStd (a : RegIdx) (w1 : Word) : ReachesInvariant (execIdStd a w1 s) :=
  reachesInvariant_conclude h (.bind fun _ _ => .bind fun v _ => .ret (h.writeIr a (canonical_packStd v)))

theorem reachesInvariant_idExt (a : RegIdx) (w1 : Word) : ReachesInvariant (execIdExt a w1 s) :=
  reachesInvariant_conclude h (.bind fun _ _ => .bind fun v _ => .ret (h.writeIr a (canonical_packExt v)))

theorem reachesInvariant_idRtr (a b : RegIdx) (f : BitVec 1) : ReachesInvariant (execIdRtr a b f s) :=
  reachesInvariant_conclude h (.bind fun _ _ => .bind fun _ _ => .bind fun _ hr =>
    .ret (h.writeIr a (canonical_setRtr f (of_readReg h.ir hr))))

theorem reachesInvariant_dataNew (a : RegIdx) (len : BitVec 8) (w1 w2 : Word) :
    ReachesInvariant (execDataNew a len w1 w2 s) := by
  refine reachesInvariant_conclude h (.bind fun _ _ => ?_)
  split
  · exact .ret (h.writeDr a (tailZero_mkData _ _))
  · exact .error _

theorem reachesInvariant_dataEmpty (a : RegIdx) : ReachesInvariant (execDataEmpty a s) :=
  reachesInvariant_conclude h (.bind fun _ _ => .ret (h.writeDr a tailZero_emptyData))

theorem reachesInvariant_dataView (a : RegIdx) : ReachesInvariant (execDataView a s) :=
  reachesInvariant_conclude h (.bind fun _ _ => .bind fun _ _ => .ret (h.setRes _ _ _))

theorem reachesInvariant_dataRdb (a : RegIdx) (idx : BitVec 3) : ReachesInvariant (execDataRdb a idx s) :=
  reachesInvariant_conclude h (.bind fun _ _ => .bind fun _ _ => .bind fun _ _ => .ret (h.setRes0 _))

theorem reachesInvariant_dataWrb (a : RegIdx) (idx : BitVec 3) (b : Byte) : ReachesInvariant (execDataWrb a idx b s) :=
  reachesInvariant_conclude h (.bind fun _ _ => .bind fun _ hr => .bind fun _ hv =>
    .ret (h.writeDr a (tailZero_set_lane b hv (of_readReg h.dr hr))))

theorem reachesInvariant_frmNewd (a b : RegIdx) (w1 : Word) : ReachesInvariant (execFrmNewd a b w1 s) :=
  reachesInvariant_conclude h (.bind fun _ _ => .bind fun _ _ => .bind fun id _ => .bind fun _ hr =>
    .ret (h.writeFr a (wellBuilt_dataFrame id (of_readReg h.dr hr))))

theorem reachesInvariant_frmNewr (a : RegIdx) (dlc : BitVec 8) (w1 : Word) : ReachesInvariant (execFrmNewr a dlc w1 s) :=
  reachesInvariant_conclude h (.bind fun _ _ => .bind fun id _ => .bind fun _ hn =>
    .ret (h.writeFr a (wellBuilt_remoteFrame id (le_of_remoteDlc hn))))

theorem reachesInvariant_frmData (a b : RegIdx) : ReachesInvariant (execFrmData a b s) := by
  refine reachesInvariant_conclude h (.bind fun _ _ => .bind fun _ _ => .bind fun fr hr => ?_)
  obtain ⟨-, htail, -⟩ := wellBuilt_iff.mp (of_readReg h.fr hr)
  split
  · exact .ret ((h.writeDr a htail).setRes0 _)
  · exact .ret (h.setRes0 _)

theorem reachesInvariant_frmPrio (a b : RegIdx) : ReachesInvariant (execFrmPrio a b s) := by
  refine reachesInvariant_conclude h (.bind fun _ _ => .bind fun _ _ => .bind fun fr hr => ?_)
  obtain ⟨hid, -⟩ := wellBuilt_iff.mp (of_readReg h.fr hr)
  exact .ret (h.writePr a hid)

theorem reachesInvariant_arbSel (mask : BitVec 8) : ReachesInvariant (execArbSel mask s) :=
  reachesInvariant_conclude h (.bind fun _ _ => .bind fun _ _ => .ret (h.setRes0 _))

/-- Every command leads from legal registers to a state that meets the invariant. -/
theorem reachesInvariant_exec (i : Instr) : ReachesInvariant (exec i s) := by
  cases i with
  | idStd a w1 => exact reachesInvariant_idStd h a w1
  | idExt a w1 => exact reachesInvariant_idExt h a w1
  | idRtr a b f => exact reachesInvariant_idRtr h a b f
  | dataNew a len w1 w2 => exact reachesInvariant_dataNew h a len w1 w2
  | dataEmpty a => exact reachesInvariant_dataEmpty h a
  | dataView a => exact reachesInvariant_dataView h a
  | dataRdb a idx => exact reachesInvariant_dataRdb h a idx
  | dataWrb a idx b => exact reachesInvariant_dataWrb h a idx b
  | frmNewd a b w1 => exact reachesInvariant_frmNewd h a b w1
  | frmNewr a dlc w1 => exact reachesInvariant_frmNewr h a dlc w1
  | frmData a b => exact reachesInvariant_frmData h a b
  | frmPrio a b => exact reachesInvariant_frmPrio h a b
  | arbSel mask => exact reachesInvariant_arbSel h mask
  | idCmp | dataEq | priCmp => exact reachesInvariant_readTwoToRes0 h _ _ _ _
  | dataFrom0 | dataFrom1 | dataFrom2 | dataFrom3 | dataFrom4 | dataFrom5 | dataFrom6 | dataFrom7 | dataFrom8 =>
    exact reachesInvariant_dataFrom h _ _ _ _
  | idIsExt | idIsStd | idGetRtr | idToId | idRaw | dataLen | dataIsEmpty | frmIsExt | frmIsStd | frmIsRem | frmIsData
    | frmId | frmDlc => exact reachesInvariant_readToRes0 h _ _ _

end

/-! ### The step and the reset state -/

theorem invariant_withHost {s : State} (h : invariant s = true) (acts : List HostAction) :
    invariant { s with host := acts } = true := h

theorem invariant_takeReset {s : State} (h : RegistersLegal s) : invariant s.takeReset = true :=
  invariant_iff.mpr ⟨h.takeReset, (by decide : statusLegal 0 = true)⟩

@[simp] theorem State.resetOf_sizes (z : Sizes) (host : List HostAction) : (State.resetOf z host).sizes = z := by
  simp [State.resetOf, State.sizes]

/-- Settles O57: the registers' part of the invariant is kept by each command, and every end of a command leaves a legal STATUS. -/
theorem stepKeepsTheInvariant : Obligations.StepKeepsTheInvariant := by
  intro s t h hst
  obtain ⟨hr, -⟩ := invariant_iff.mp h
  rcases step_next_cases hst with ⟨-, rfl⟩ | ⟨_, acts, -, rfl⟩ | ⟨_, acts, -, rfl⟩ |
    ⟨_, acts, -, ⟨-, rfl⟩ | ⟨_, -, rfl⟩ | ⟨i, _, -, he⟩⟩
  · exact h
  · exact invariant_withHost h acts
  · exact invariant_takeReset (hr.withHost acts)
  · exact invariant_withHost h acts
  · exact invariant_raise (hr.withHost _) _
  · exact reachesInvariant_exec (hr.withHost _) i t he

/-- Settles O59: each file of the reset state is a list of unwritten registers as long as the size chosen for it. -/
theorem resetStateHoldsTheSpecsValues : Obligations.ResetStateHoldsTheSpecsValues := by
  refine ⟨fun z host => ⟨fun i => ?_, State.resetOf_sizes z host, rfl, rfl, rfl, rfl⟩, rfl⟩
  exact ⟨List.getElem?_replicate_of_lt, List.getElem?_replicate_of_lt, List.getElem?_replicate_of_lt,
    List.getElem?_replicate_of_lt⟩

end Sys2Proof.Machine
end

section
/-!
Independence (10_state.md R28, R30, R35, R41): two states that differ only in hidden payload lanes, or in keys of the same order, end
every command alike. Both are cases of one relation between states, `Alike`, kept command by command for every choice of what
may differ (`Likeness`).
-/

namespace Sys2Proof.Machine

open Sys2Proof.Safety

/-! ### Computations that end alike -/

/-- Two computations of a command end alike: with the same error, or with results related by `r`. -/
def EndAlike {α β : Type} (r : α → β → Prop) : Except ErrorCode α → Except ErrorCode β → Prop
  | .ok x, .ok y => r x y
  | .error e, .error f => e = f
  | _, _ => False

namespace EndAlike

theorem of_eq {α : Type} {x y : Except ErrorCode α} (h : x = y) : EndAlike Eq x y := by
  subst h
  cases x <;> rfl

theorem bind {α β γ δ : Type} {r : α → β → Prop} {q : γ → δ → Prop} {x : Except ErrorCode α} {y : Except ErrorCode β}
    {f : α → Except ErrorCode γ} {g : β → Except ErrorCode δ} (h : EndAlike r x y)
    (hf : ∀ v w, r v w → EndAlike q (f v) (g w)) : EndAlike q (x >>= f) (y >>= g) := by
  match x, y, h with
  | .ok v, .ok w, h => exact hf v w h
  | .error _, .error _, h => exact h

/-- The same check on both sides. -/
theorem bind_eq {α γ δ : Type} {q : γ → δ → Prop} {x y : Except ErrorCode α}
    {f : α → Except ErrorCode γ} {g : α → Except ErrorCode δ} (h : x = y)
    (hf : ∀ v, EndAlike q (f v) (g v)) : EndAlike q (x >>= f) (y >>= g) :=
  bind (of_eq h) fun v _ hv => hv ▸ hf v

theorem ret {α β : Type} {r : α → β → Prop} {x : α} {y : β} (h : r x y) :
    EndAlike r (pure x : Except ErrorCode α) (pure y : Except ErrorCode β) := h

theorem error {α β : Type} (r : α → β → Prop) (e : ErrorCode) :
    EndAlike r (throw e : Except ErrorCode α) (throw e : Except ErrorCode β) := rfl

end EndAlike

/-! ### Files with related registers -/

theorem checkIndex_congr {α β : Type} {file : List (Option α)} {file' : List (Option β)} (h : file.length = file'.length)
    (i : Nat) : checkIndex file i = checkIndex file' i := by
  simp [checkIndex, h]

theorem checkIndices_congr {α β : Type} {file : List (Option α)} {file' : List (Option β)}
    (h : file.length = file'.length) (is : List Nat) : checkIndices file is = checkIndices file' is := by
  induction is with
  | nil => rfl
  | cons i is ih => simp [checkIndices, checkIndex_congr h, ih]

theorem relReg_eq {α : Type} : (relReg Eq : Option α → Option α → Prop) = Eq := by
  funext x y
  cases x <;> cases y <;> simp [relReg]

theorem forall₂_relReg_eq {α : Type} {file file' : List (Option α)} :
    List.Forall₂ (relReg Eq) file file' ↔ file = file' := by
  rw [relReg_eq, List.forall₂_eq_eq_eq]

/-- The same register of two files with related registers reads alike. -/
theorem readReg_alike {α : Type} {r : α → α → Prop} {file file' : List (Option α)}
    (h : List.Forall₂ (relReg r) file file') (i : Nat) : EndAlike r (readReg file i) (readReg file' i) := by
  induction h generalizing i with
  | nil => rfl
  | @cons x y xs ys hxy _ ih =>
    cases i with
    | zero =>
      match x, y, hxy with
      | none, none, _ => rfl
      | some _, some _, hxy => exact hxy
    | succ i => exact ih i

theorem writeReg_alike {α : Type} {r : α → α → Prop} {file file' : List (Option α)} {v w : α}
    (h : List.Forall₂ (relReg r) file file') (i : Nat) (hvw : r v w) :
    List.Forall₂ (relReg r) (writeReg file i v) (writeReg file' i w) := by
  induction h generalizing i with
  | nil => exact .nil
  | cons hxy hs ih =>
    cases i with
    | zero => exact .cons hvw hs
    | succ i => exact .cons hxy (ih i)

theorem unwritten_alike {α : Type} (r : α → α → Prop) {m n : Nat} (h : m = n) :
    List.Forall₂ (relReg r) (List.replicate m none) (List.replicate n none) := by
  subst h
  exact List.forall₂_same.mpr fun x hx => by rw [List.eq_of_mem_replicate hx]; trivial

/-! ### Data and frames with the same view -/

theorem viewLane_congr {d e : Data} (h : sameView d e) (i : Fin 8) : viewLane d i = viewLane e i := by
  obtain ⟨hlen, hbuf⟩ := h
  unfold viewLane
  rw [← hlen]
  split
  case isTrue hi => exact hbuf i hi
  case isFalse => rfl

theorem viewWordLow_congr {d e : Data} (h : sameView d e) : viewWordLow d = viewWordLow e := by
  simp [viewWordLow, viewLane_congr h]

theorem viewWordHigh_congr {d e : Data} (h : sameView d e) : viewWordHigh d = viewWordHigh e := by
  simp [viewWordHigh, viewLane_congr h]

theorem checkView_congr {d e : Data} (h : sameView d e) (idx : BitVec 3) : checkView d idx = checkView e idx := by
  simp [checkView, h.1]

theorem eqData_congr {d d' e e' : Data} (hd : sameView d d') (he : sameView e e') : eqData d e = eqData d' e' := by
  obtain ⟨hdl, hdb⟩ := hd
  obtain ⟨hel, heb⟩ := he
  refine decide_eq_decide.mpr ?_
  rw [← hdl, ← hel]
  refine and_congr_right fun hl => forall₂_congr fun i hi => ?_
  rw [hdb i hi, heb i (hl ▸ hi)]

theorem sameView_refl (d : Data) : sameView d d := ⟨rfl, fun _ _ => rfl⟩

theorem sameView_set {d e : Data} (h : sameView d e) (idx : BitVec 3) (b : Byte) :
    sameView { d with buf := d.buf.set (laneIndex idx) b } { e with buf := e.buf.set (laneIndex idx) b } := by
  obtain ⟨hlen, hbuf⟩ := h
  refine ⟨hlen, fun i hi => ?_⟩
  have hb : d.buf[i.val] = e.buf[i.val] := hbuf i hi
  simp [Vector.getElem_set, hb]

theorem isDataFrame_iff {f : Frame} : isDataFrame f = true ↔ f.id.getLsbD 1 = false := by
  have hbit : rtr f.id = BitVec.ofBool (f.id.getLsbD 1) := BitVec.eq_of_getLsbD_eq fun i hi => by
    obtain rfl : i = 0 := by omega
    simp [rtr]
  rw [isDataFrame, hbit]
  cases f.id.getLsbD 1 <;> decide

/-! ### Keys of the same order -/

theorem sameOrder_refl (p : List (Option FramePriority)) : sameOrder p p := by
  refine ⟨rfl, fun _ => Iff.rfl, fun i j x y x' y' hx hy hx' hy' => ?_⟩
  obtain rfl : x = x' := by simpa [hx] using hx'
  obtain rfl : y = y' := by simpa [hy] using hy'
  exact ⟨Iff.rfl, Iff.rfl⟩

/-- The keys that register `i` holds in two priority files. -/
def HeldBy (p q : List (Option FramePriority)) (i : Nat) (x x' : FramePriority) : Prop :=
  p[i]? = some (some x) ∧ q[i]? = some (some x')

/-- Two candidates of the arbiter from the same register of two priority files. -/
def SameCandidate (p q : List (Option FramePriority)) (c c' : Nat × FramePriority) : Prop :=
  c.1 = c'.1 ∧ HeldBy p q c.1 c.2 c'.2

section
variable {p q : List (Option FramePriority)} (h : sameOrder p q)
include h

theorem prioCmp_congr {i j : Nat} {x x' y y' : FramePriority} (hx : HeldBy p q i x x') (hy : HeldBy p q j y y') :
    prioCmp x y = prioCmp x' y' := by
  obtain ⟨-, -, horder⟩ := h
  obtain ⟨hlt, heq⟩ := horder i j x y x' y' hx.1 hy.1 hx.2 hy.2
  simp only [prioCmp, cmpIdReg, hlt, heq]

theorem readKey_alike (i : Nat) : EndAlike (HeldBy p q i) (readReg p i) (readReg q i) := by
  obtain ⟨hlen, hnone, -⟩ := h
  by_cases hi : i < p.length
  · rcases reg_cases hi with hp | ⟨x, hp⟩
    · rw [readReg_of_none hp, readReg_of_none ((hnone i).mp hp)]
      rfl
    · rcases reg_cases (hlen ▸ hi) with hq | ⟨x', hq⟩
      · rw [(hnone i).mpr hq] at hp
        cases hp
      · rw [readReg_of_some hp, readReg_of_some hq]
        exact ⟨hp, hq⟩
  · have hp : p[i]? = none := List.getElem?_eq_none (by omega)
    have hq : q[i]? = none := List.getElem?_eq_none (by omega)
    simp [readReg, hp, hq, EndAlike]

theorem readRegs_alike (is : List Nat) : EndAlike (List.Forall₂ (SameCandidate p q)) (readRegs p is) (readRegs q is) := by
  induction is with
  | nil => exact List.Forall₂.nil
  | cons i is ih =>
    exact .bind (readKey_alike h i) fun _ _ hv => .bind ih fun _ _ hvs => .ret (.cons ⟨rfl, hv⟩ hvs)

theorem betterOf_alike {best best' : Option (Nat × FramePriority)} {c c' : Nat × FramePriority}
    (hb : Option.Rel (SameCandidate p q) best best') (hc : SameCandidate p q c c') :
    Option.Rel (SameCandidate p q) (betterOf best c) (betterOf best' c') := by
  cases hb with
  | none => exact .some hc
  | some hb =>
    simp only [betterOf, prioCmp_congr h hc.2 hb.2]
    split
    · exact .some hc
    · exact .some hb

theorem arbiterWord_congr {cs cs' : List (Nat × FramePriority)} (hcs : List.Forall₂ (SameCandidate p q) cs cs') :
    arbiterWord (arbitrate cs) = arbiterWord (arbitrate cs') := by
  have hw : Option.Rel (SameCandidate p q) (arbitrate cs) (arbitrate cs') :=
    List.rel_foldl (P := Option.Rel (SameCandidate p q)) (R := SameCandidate p q)
      (fun _ _ hb _ _ hc => betterOf_alike h hb hc) .none hcs
  generalize arbitrate cs = w, arbitrate cs' = w' at hw
  cases hw with
  | none => rfl
  | some hc => simp only [arbiterWord, hc.1]

end

/-! ### States alike -/

/-- What two states may differ in: how their Data, their frames and their priority files are related when a command starts, and how
their priority files are when it ends. Related values have the same view and the same order, and writes keep them related. -/
structure Likeness where
  data : Data → Data → Prop
  frame : Frame → Frame → Prop
  keys : List (Option FramePriority) → List (Option FramePriority) → Prop
  keysAfter : List (Option FramePriority) → List (Option FramePriority) → Prop
  data_refl : ∀ d, data d d
  data_view : ∀ {d e}, data d e → sameView d e
  data_set : ∀ {d e} (idx : BitVec 3) (b : Byte), data d e →
    data { d with buf := d.buf.set (laneIndex idx) b } { e with buf := e.buf.set (laneIndex idx) b }
  frame_of_data : ∀ {d e} (r : IdReg), data d e → frame ⟨r, d⟩ ⟨r, e⟩
  frame_view : ∀ {f g}, frame f g → sameFrameView f g
  data_of_frame : ∀ {f g}, frame f g → isDataFrame f = true → data f.data g.data
  keys_order : ∀ {p q}, keys p q → sameOrder p q
  keys_kept : ∀ {p q}, keys p q → keysAfter p q
  keys_written : ∀ {p q} (i : Nat) (v : FramePriority), keys p q → keysAfter (writeReg p i v) (writeReg q i v)

/-- Two states with related Data and frames, priority files related by `keys`, and everything else equal. -/
structure Alike (L : Likeness) (keys : List (Option FramePriority) → List (Option FramePriority) → Prop)
    (s t : State) : Prop where
  ir : s.ir = t.ir
  dr : List.Forall₂ (relReg L.data) s.dr t.dr
  fr : List.Forall₂ (relReg L.frame) s.fr t.fr
  pr : keys s.pr t.pr
  status : s.status = t.status
  res0 : s.res0 = t.res0
  res1 : s.res1 = t.res1
  res2 : s.res2 = t.res2
  host : s.host = t.host

/-- Two outcomes with next states related by `r`. -/
def NextAlike (r : State → State → Prop) (x y : Host.Outcome State Fault Refusal) : Prop :=
  ∃ s' t', x = .next s' ∧ y = .next t' ∧ r s' t'

namespace Alike

variable {L : Likeness} {keys : List (Option FramePriority) → List (Option FramePriority) → Prop} {s t : State}

theorem complete (h : Alike L keys s t) : Alike L keys s.complete t.complete :=
  { h with status := congrArg statusAfterOk h.status }

theorem raise (h : Alike L keys s t) (e : ErrorCode) : Alike L keys (s.raise e) (t.raise e) :=
  { h with status := congrArg (statusAfterError e) h.status }

theorem setRes0 (h : Alike L keys s t) {v w : Word} (hw : v = w) : Alike L keys (s.setRes0 v) (t.setRes0 w) :=
  { h with res0 := hw }

theorem setRes (h : Alike L keys s t) {v0 w0 v1 w1 v2 w2 : Word} (h0 : v0 = w0) (h1 : v1 = w1) (h2 : v2 = w2) :
    Alike L keys (s.setRes v0 v1 v2) (t.setRes w0 w1 w2) :=
  { h with res0 := h0, res1 := h1, res2 := h2 }

theorem writeIr (h : Alike L keys s t) (i : RegIdx) {v w : IdReg} (hw : v = w) :
    Alike L keys (s.writeIr i v) (t.writeIr i w) :=
  { h with ir := congrArg₂ (fun file r => writeReg file i.toNat r) h.ir hw }

theorem writeDr (h : Alike L keys s t) (i : RegIdx) {d e : Data} (hd : L.data d e) :
    Alike L keys (s.writeDr i d) (t.writeDr i e) :=
  { h with dr := writeReg_alike h.dr i.toNat hd }

theorem writeFr (h : Alike L keys s t) (i : RegIdx) {f g : Frame} (hf : L.frame f g) :
    Alike L keys (s.writeFr i f) (t.writeFr i g) :=
  { h with fr := writeReg_alike h.fr i.toNat hf }

theorem withHost (h : Alike L keys s t) (acts : List HostAction) :
    Alike L keys { s with host := acts } { t with host := acts } :=
  { h with host := rfl }

end Alike

section
variable {L : Likeness} {s t : State} (h : Alike L L.keys s t)
include h

/-! ### Commands -/

/-- What is related when a command starts is related when it ends without a write. -/
theorem Alike.kept : Alike L L.keysAfter s t := { h with pr := L.keys_kept h.pr }

theorem Alike.writePr (i : RegIdx) {v w : FramePriority} (hw : v = w) :
    Alike L L.keysAfter (s.writePr i v) (t.writePr i w) := by
  subst hw
  exact { h with pr := L.keys_written i.toNat v h.pr }

theorem Alike.checkIr (i : Nat) : checkIndex s.ir i = checkIndex t.ir i := by rw [h.ir]

theorem Alike.checkDr (i : Nat) : checkIndex s.dr i = checkIndex t.dr i := checkIndex_congr h.dr.length_eq i

theorem Alike.checkFr (i : Nat) : checkIndex s.fr i = checkIndex t.fr i := checkIndex_congr h.fr.length_eq i

theorem Alike.checkPr (i : Nat) : checkIndex s.pr i = checkIndex t.pr i := checkIndex_congr (L.keys_order h.pr).1 i

theorem nextAlike_conclude {x y : Except ErrorCode State} (hxy : EndAlike (Alike L L.keysAfter) x y) :
    NextAlike (Alike L L.keysAfter) (conclude s x) (conclude t y) := by
  match x, y, hxy with
  | .ok u, .ok v, hxy => exact ⟨_, _, rfl, rfl, hxy.complete⟩
  | .error e, .error _, rfl => exact ⟨_, _, rfl, rfl, h.kept.raise e⟩

theorem nextAlike_readToRes0 {α : Type} {r : α → α → Prop} {file file' : List (Option α)} {a : RegIdx} {f g : α → Word}
    (hc : checkIndex file a.toNat = checkIndex file' a.toNat)
    (hr : EndAlike r (readReg file a.toNat) (readReg file' a.toNat)) (hf : ∀ v w, r v w → f v = g w) :
    NextAlike (Alike L L.keysAfter) (readToRes0 file a f s) (readToRes0 file' a g t) :=
  nextAlike_conclude h (.bind_eq hc fun _ => .bind hr fun v w hv => .ret (h.kept.setRes0 (hf v w hv)))

theorem nextAlike_readTwoToRes0 {α : Type} {r q : α → α → Prop} {file file' : List (Option α)} {a b : RegIdx}
    {f g : α → α → Word} (hc : ∀ i, checkIndex file i = checkIndex file' i)
    (ha : EndAlike r (readReg file a.toNat) (readReg file' a.toNat))
    (hb : EndAlike q (readReg file b.toNat) (readReg file' b.toNat))
    (hf : ∀ v v' w w', r v v' → q w w' → f v w = g v' w') :
    NextAlike (Alike L L.keysAfter) (readTwoToRes0 file a b f s) (readTwoToRes0 file' a b g t) :=
  nextAlike_conclude h (.bind_eq (hc _) fun _ => .bind_eq (hc _) fun _ => .bind ha fun v v' hv =>
    .bind hb fun w w' hw => .ret (h.kept.setRes0 (hf v v' w w' hv hw)))

/-- A command that reads one IdReg. -/
theorem nextAlike_readIr (a : RegIdx) (f : IdReg → Word) :
    NextAlike (Alike L L.keysAfter) (readToRes0 s.ir a f s) (readToRes0 t.ir a f t) :=
  nextAlike_readToRes0 h (h.checkIr _) (.of_eq (by rw [h.ir])) fun _ _ => congrArg f

/-- A command that reads one Data by its view. -/
theorem nextAlike_readDr (a : RegIdx) (f : Data → Word) (hf : ∀ d e, sameView d e → f d = f e) :
    NextAlike (Alike L L.keysAfter) (readToRes0 s.dr a f s) (readToRes0 t.dr a f t) :=
  nextAlike_readToRes0 h (h.checkDr _) (readReg_alike h.dr _) fun d e hd => hf d e (L.data_view hd)

/-- A command that reads one frame by its IdReg and its length. -/
theorem nextAlike_readFr (a : RegIdx) (f : Frame → Word)
    (hf : ∀ g g' : Frame, g.id = g'.id → g.data.len = g'.data.len → f g = f g') :
    NextAlike (Alike L L.keysAfter) (readToRes0 s.fr a f s) (readToRes0 t.fr a f t) :=
  nextAlike_readToRes0 h (h.checkFr _) (readReg_alike h.fr _) fun g g' hg => by
    obtain ⟨hid, hlen, -⟩ := L.frame_view hg
    exact hf g g' hid hlen

theorem nextAlike_idStd (a : RegIdx) (w1 : Word) :
    NextAlike (Alike L L.keysAfter) (execIdStd a w1 s) (execIdStd a w1 t) :=
  nextAlike_conclude h (.bind_eq (h.checkIr _) fun _ => .bind_eq rfl fun _ => .ret (h.kept.writeIr a rfl))

theorem nextAlike_idExt (a : RegIdx) (w1 : Word) :
    NextAlike (Alike L L.keysAfter) (execIdExt a w1 s) (execIdExt a w1 t) :=
  nextAlike_conclude h (.bind_eq (h.checkIr _) fun _ => .bind_eq rfl fun _ => .ret (h.kept.writeIr a rfl))

theorem nextAlike_idRtr (a b : RegIdx) (f : BitVec 1) :
    NextAlike (Alike L L.keysAfter) (execIdRtr a b f s) (execIdRtr a b f t) :=
  nextAlike_conclude h (.bind_eq (h.checkIr _) fun _ => .bind_eq (h.checkIr _) fun _ => .bind_eq (by rw [h.ir]) fun _ =>
    .ret (h.kept.writeIr a rfl))

theorem nextAlike_idCmp (a b : RegIdx) : NextAlike (Alike L L.keysAfter) (execIdCmp a b s) (execIdCmp a b t) :=
  nextAlike_readTwoToRes0 h h.checkIr (.of_eq (by rw [h.ir])) (.of_eq (by rw [h.ir])) fun _ _ _ _ hv hw => by rw [hv, hw]

theorem nextAlike_dataFrom (k : Fin 9) (a : RegIdx) (w1 w2 : Word) :
    NextAlike (Alike L L.keysAfter) (dataFrom k a w1 w2 s) (dataFrom k a w1 w2 t) :=
  nextAlike_conclude h (.bind_eq (h.checkDr _) fun _ => .ret (h.kept.writeDr a (L.data_refl _)))

theorem nextAlike_dataNew (a : RegIdx) (len : BitVec 8) (w1 w2 : Word) :
    NextAlike (Alike L L.keysAfter) (execDataNew a len w1 w2 s) (execDataNew a len w1 w2 t) := by
  refine nextAlike_conclude h (.bind_eq (h.checkDr _) fun _ => ?_)
  cases boundedLength len with
  | some n => exact .ret (h.kept.writeDr a (L.data_refl _))
  | none => exact .error _ _

theorem nextAlike_dataEmpty (a : RegIdx) : NextAlike (Alike L L.keysAfter) (execDataEmpty a s) (execDataEmpty a t) :=
  nextAlike_conclude h (.bind_eq (h.checkDr _) fun _ => .ret (h.kept.writeDr a (L.data_refl _)))

theorem nextAlike_dataView (a : RegIdx) : NextAlike (Alike L L.keysAfter) (execDataView a s) (execDataView a t) :=
  nextAlike_conclude h (.bind_eq (h.checkDr _) fun _ => .bind (readReg_alike h.dr _) fun d e hd => by
    have hv : sameView d e := L.data_view hd
    exact .ret (h.kept.setRes (by rw [hv.1]) (viewWordLow_congr hv) (viewWordHigh_congr hv)))

theorem nextAlike_dataRdb (a : RegIdx) (idx : BitVec 3) :
    NextAlike (Alike L L.keysAfter) (execDataRdb a idx s) (execDataRdb a idx t) := by
  refine nextAlike_conclude h (.bind_eq (h.checkDr _) fun _ => .bind (readReg_alike h.dr _) fun d e hd => ?_)
  have hv : sameView d e := L.data_view hd
  cases hc : checkView d idx with
  | error err =>
    rw [← checkView_congr hv, hc]
    rfl
  | ok _ =>
    rw [← checkView_congr hv, hc]
    exact .ret (h.kept.setRes0 (congrArg byteWord (hv.2 (laneIndex idx) (checkView_eq_ok.mp hc))))

theorem nextAlike_dataWrb (a : RegIdx) (idx : BitVec 3) (b : Byte) :
    NextAlike (Alike L L.keysAfter) (execDataWrb a idx b s) (execDataWrb a idx b t) :=
  nextAlike_conclude h (.bind_eq (h.checkDr _) fun _ => .bind (readReg_alike h.dr _) fun _ _ hd =>
    .bind_eq (checkView_congr (L.data_view hd) idx) fun _ => .ret (h.kept.writeDr a (L.data_set idx b hd)))

theorem nextAlike_dataEq (a b : RegIdx) : NextAlike (Alike L L.keysAfter) (execDataEq a b s) (execDataEq a b t) :=
  nextAlike_readTwoToRes0 h h.checkDr (readReg_alike h.dr _) (readReg_alike h.dr _) fun _ _ _ _ hv hw =>
    congrArg boolWord (eqData_congr (L.data_view hv) (L.data_view hw))

theorem nextAlike_frmNewd (a b : RegIdx) (w1 : Word) :
    NextAlike (Alike L L.keysAfter) (execFrmNewd a b w1 s) (execFrmNewd a b w1 t) :=
  nextAlike_conclude h (.bind_eq (h.checkFr _) fun _ => .bind_eq (h.checkDr _) fun _ => .bind_eq rfl fun _ =>
    .bind (readReg_alike h.dr _) fun _ _ hd => .ret (h.kept.writeFr a (L.frame_of_data _ hd)))

theorem nextAlike_frmNewr (a : RegIdx) (dlc : BitVec 8) (w1 : Word) :
    NextAlike (Alike L L.keysAfter) (execFrmNewr a dlc w1 s) (execFrmNewr a dlc w1 t) :=
  nextAlike_conclude h (.bind_eq (h.checkFr _) fun _ => .bind_eq rfl fun _ => .bind_eq rfl fun _ =>
    .ret (h.kept.writeFr a (L.frame_of_data _ (L.data_refl _))))

theorem nextAlike_frmData (a b : RegIdx) : NextAlike (Alike L L.keysAfter) (execFrmData a b s) (execFrmData a b t) := by
  refine nextAlike_conclude h (.bind_eq (h.checkDr _) fun _ => .bind_eq (h.checkFr _) fun _ =>
    .bind (readReg_alike h.fr _) fun f g hf => ?_)
  have hk : isDataFrame g = isDataFrame f := congrArg (rtr · == 0) (L.frame_view hf).1.symm
  rw [hk]
  split
  case isTrue hdata => exact .ret ((h.kept.writeDr a (L.data_of_frame hf hdata)).setRes0 rfl)
  case isFalse => exact .ret (h.kept.setRes0 rfl)

theorem nextAlike_frmPrio (a b : RegIdx) :
    NextAlike (Alike L L.keysAfter) (execFrmPrio a b s) (execFrmPrio a b t) :=
  nextAlike_conclude h (.bind_eq (h.checkPr _) fun _ => .bind_eq (h.checkFr _) fun _ =>
    .bind (readReg_alike h.fr _) fun _ _ hf => .ret (h.writePr a (L.frame_view hf).1))

theorem nextAlike_priCmp (a b : RegIdx) : NextAlike (Alike L L.keysAfter) (execPriCmp a b s) (execPriCmp a b t) :=
  have ho : sameOrder s.pr t.pr := L.keys_order h.pr
  nextAlike_readTwoToRes0 h h.checkPr (readKey_alike ho _) (readKey_alike ho _) fun _ _ _ _ hv hw =>
    congrArg orderWord (prioCmp_congr ho hv hw)

theorem nextAlike_arbSel (mask : BitVec 8) :
    NextAlike (Alike L L.keysAfter) (execArbSel mask s) (execArbSel mask t) :=
  have ho : sameOrder s.pr t.pr := L.keys_order h.pr
  nextAlike_conclude h (.bind_eq (checkIndices_congr ho.1 _) fun _ => .bind (readRegs_alike ho _) fun _ _ hcs =>
    .ret (h.kept.setRes0 (arbiterWord_congr ho hcs)))

/-- Every command takes states alike to states alike. -/
theorem nextAlike_exec (i : Instr) : NextAlike (Alike L L.keysAfter) (exec i s) (exec i t) := by
  cases i with
  | idStd a w1 => exact nextAlike_idStd h a w1
  | idExt a w1 => exact nextAlike_idExt h a w1
  | idRtr a b f => exact nextAlike_idRtr h a b f
  | idIsExt | idIsStd | idGetRtr | idToId | idRaw => exact nextAlike_readIr h _ _
  | idCmp a b => exact nextAlike_idCmp h a b
  | dataNew a len w1 w2 => exact nextAlike_dataNew h a len w1 w2
  | dataEmpty a => exact nextAlike_dataEmpty h a
  | dataFrom0 | dataFrom1 | dataFrom2 | dataFrom3 | dataFrom4 | dataFrom5 | dataFrom6 | dataFrom7 | dataFrom8 =>
    exact nextAlike_dataFrom h _ _ _ _
  | dataLen | dataIsEmpty => exact nextAlike_readDr h _ _ fun _ _ hv => by rw [hv.1]
  | dataView a => exact nextAlike_dataView h a
  | dataRdb a idx => exact nextAlike_dataRdb h a idx
  | dataWrb a idx b => exact nextAlike_dataWrb h a idx b
  | dataEq a b => exact nextAlike_dataEq h a b
  | frmNewd a b w1 => exact nextAlike_frmNewd h a b w1
  | frmNewr a dlc w1 => exact nextAlike_frmNewr h a dlc w1
  | frmIsExt | frmIsStd | frmIsRem | frmIsData | frmId =>
    exact nextAlike_readFr h _ _ fun _ _ hid _ => by simp only [isRemoteFrame, isDataFrame, hid]
  | frmDlc => exact nextAlike_readFr h _ _ fun _ _ _ hlen => by rw [hlen]
  | frmData a b => exact nextAlike_frmData h a b
  | frmPrio a b => exact nextAlike_frmPrio h a b
  | priCmp a b => exact nextAlike_priCmp h a b
  | arbSel mask => exact nextAlike_arbSel h mask

end

/-! ### Hidden lanes -/

/-- Payloads may differ where no command looks (10_state.md R28, R41); the priority files are the same. -/
def hiddenLanes : Likeness where
  data := sameView
  frame := sameFrameView
  keys := Eq
  keysAfter := Eq
  data_refl := sameView_refl
  data_view := id
  data_set idx b hd := sameView_set hd idx b
  frame_of_data _ hd := ⟨rfl, hd.1, fun _ => hd⟩
  frame_view := id
  data_of_frame := fun ⟨_, _, hview⟩ hdata => hview (isDataFrame_iff.mp hdata)
  keys_order hk := hk ▸ sameOrder_refl _
  keys_kept := id
  keys_written i v hk := congrArg (writeReg · i v) hk

theorem sameButHidden_iff {s t : State} : sameButHidden s t ↔ Alike hiddenLanes Eq s t := by
  simp only [sameButHidden, outputs, Prod.mk.injEq]
  constructor
  · rintro ⟨hir, hdr, hfr, hpr, ⟨hst, h0, h1, h2⟩, hhost⟩
    exact ⟨hir, hdr, hfr, hpr, hst, h0, h1, h2, hhost⟩
  · rintro ⟨hir, hdr, hfr, hpr, hst, h0, h1, h2, hhost⟩
    exact ⟨hir, hdr, hfr, hpr, ⟨hst, h0, h1, h2⟩, hhost⟩

/-- Reset takes any two states alike to the same registers. -/
theorem Alike.takeReset {s t : State} (h : Alike hiddenLanes Eq s t) : Alike hiddenLanes Eq s.takeReset t.takeReset where
  ir := by simp [h.ir]
  dr := unwritten_alike _ h.dr.length_eq
  fr := unwritten_alike _ h.fr.length_eq
  pr := by simp [h.pr]
  status := rfl
  res0 := rfl
  res1 := rfl
  res2 := rfl
  host := h.host

/-- With the same host actions, the next one is taken alike or stops the block on both sides. -/
theorem step_alike {s t : State} (h : Alike hiddenLanes Eq s t) (acts : List HostAction) :
    NextAlike (Alike hiddenLanes Eq) (step { s with host := acts }) (step { t with host := acts }) ∨
      (step { s with host := acts } = .refused .truncatedPacket ∧
        step { t with host := acts } = .refused .truncatedPacket) := by
  match acts with
  | [] => exact .inl ⟨_, _, rfl, rfl, h.withHost []⟩
  | .read _ :: acts => exact .inl ⟨_, _, rfl, rfl, h.withHost acts⟩
  | .reset _ :: acts => exact .inl ⟨_, _, rfl, rfl, (h.withHost acts).takeReset⟩
  | .issue ws :: acts =>
    rw [step_issue, step_issue]
    cases decode ws with
    | command i rest => exact .inl (nextAlike_exec (h.withHost _) i)
    | illegal rest => exact .inl ⟨_, _, rfl, rfl, { h.withHost _ with status := rfl }⟩
    | truncated => exact .inr ⟨rfl, rfl⟩
    | nothing => exact .inl ⟨_, _, rfl, rfl, h.withHost acts⟩

/-- Settles O53: both states take the same host action, and the command it presents cannot tell them apart. -/
theorem hiddenLanesNeverReachTheOutputs : Obligations.HiddenLanesNeverReachTheOutputs := by
  intro s t hst
  have h : Alike hiddenLanes Eq s t := sameButHidden_iff.mp hst
  have ht : step t = step { t with host := s.host } := by rw [h.host]
  simp only [sameButHidden_iff, ht]
  exact step_alike h s.host

/-! ### Keys of the same order -/

/-- Only the order of the keys is the same, until a command ends; Data and frames are the same. -/
def keyValues : Likeness where
  data := Eq
  frame := Eq
  keys := sameOrder
  keysAfter _ _ := True
  data_refl _ := rfl
  data_view hd := hd ▸ sameView_refl _
  data_set _ _ hd := by rw [hd]
  frame_of_data _ hd := by rw [hd]
  frame_view hf := hf ▸ ⟨rfl, rfl, fun _ => sameView_refl _⟩
  data_of_frame hf _ := by rw [hf]
  keys_order := id
  keys_kept _ := trivial
  keys_written _ _ _ := trivial

/-- Settles O54: a command compares keys or writes one, and nothing else of them reaches what it computes. -/
theorem keysAreObservableOnlyByOrder : Obligations.KeysAreObservableOnlyByOrder := by
  intro i s q hq
  have h : Alike keyValues sameOrder s { s with pr := q } :=
    ⟨rfl, forall₂_relReg_eq.mpr rfl, forall₂_relReg_eq.mpr rfl, hq, rfl, rfl, rfl, rfl, rfl⟩
  obtain ⟨t, u, ht, hu, htu⟩ := nextAlike_exec h i
  refine ⟨t, u, ht, hu, ?_, htu.ir, forall₂_relReg_eq.mp htu.dr, forall₂_relReg_eq.mp htu.fr, htu.host⟩
  simp only [outputs, htu.status, htu.res0, htu.res1, htu.res2]

end Sys2Proof.Machine
end

section
/-!
The frame of every command (10_state.md R32 to R36, R38; 60_exceptions.md R251): what the next state of a command can differ in,
said once for each command (`KeepsFrame`), and what no step but a reset does.
-/

namespace Sys2Proof.Machine

open Sys2Proof.Safety

/-! ### One register written -/

/-- A file as it was, or with a value written to the one of its registers that is the destination `d`. -/
def WritesOnly {α : Type} (d : Destination) (inThisFile : RegIdx → Destination) (file file' : List (Option α)) : Prop :=
  file' = file ∨ ∃ a v, d = inThisFile a ∧ file' = writeReg file a.toNat v

namespace WritesOnly

variable {α : Type} {d : Destination} {inThisFile : RegIdx → Destination} {file file' : List (Option α)}

theorem same : WritesOnly d inThisFile file file := .inl rfl

theorem write {a : RegIdx} (hd : d = inThisFile a) (v : α) :
    WritesOnly d inThisFile file (writeReg file a.toNat v) := .inr ⟨a, v, hd, rfl⟩

theorem length_eq (h : WritesOnly d inThisFile file file') : file'.length = file.length := by
  obtain rfl | ⟨a, v, -, rfl⟩ := h
  · rfl
  · exact writeReg_length file a.toNat v

theorem getElem?_eq (h : WritesOnly d inThisFile file file') (i : Nat)
    (hi : d ≠ inThisFile (BitVec.ofNat 3 i) ∨ 8 ≤ i) : file'[i]? = file[i]? := by
  obtain rfl | ⟨a, v, rfl, rfl⟩ := h
  · rfl
  · refine writeReg_other file v fun hai => ?_
    subst hai
    rcases hi with hne | hge
    · exact hne (by rw [BitVec.ofNat_toNat, BitVec.setWidth_eq])
    · exact absurd a.isLt (Nat.not_lt.mpr hge)

/-- A register that holds a value keeps holding one (10_state.md R36). -/
theorem stays_written (h : WritesOnly d inThisFile file file') {k : RegIdx} {v : α} (hk : holds file k v) :
    ∃ w, holds file' k w := by
  obtain rfl | ⟨a, w, -, rfl⟩ := h
  · exact ⟨v, hk⟩
  · by_cases hak : a.toNat = k.toNat
    · have hlt : k.toNat < file.length := lt_of_getElem?_some hk
      exact ⟨w, hak ▸ writeReg_same w hlt⟩
    · exact ⟨v, (writeReg_other file w hak).trans hk⟩

end WritesOnly

/-! ### FAULT -/

theorem faultOf_statusAfterOk (st : Word) : faultOf (statusAfterOk st) = faultOf st := by
  simp [faultOf, statusAfterOk_eq]

theorem faultOf_statusAfterError {st : Word} (e : ErrorCode) (h : faultOf st = true) :
    faultOf (statusAfterError e st) = true := by
  cases he : e.isFault with
  | false => simp [statusAfterError_rejection st he, faultOf, show st.getLsbD 8 = true from h]
  | true => simp [statusAfterError_fault st he, faultOf]

/-! ### The frame of a command -/

/-- What a command leaves of the state it starts in: every register but its destination, the host's actions, the results it does not
produce, and FAULT once it is set. -/
structure KeepsFrame (i : Instr) (s t : State) : Prop where
  ir : WritesOnly (destination i) .inIr s.ir t.ir
  dr : WritesOnly (destination i) .inDr s.dr t.dr
  fr : WritesOnly (destination i) .inFr s.fr t.fr
  pr : WritesOnly (destination i) .inPr s.pr t.pr
  host : t.host = s.host
  res0 : resultCount i = 0 → t.res0 = s.res0
  res12 : resultCount i ≠ 3 → t.res1 = s.res1 ∧ t.res2 = s.res2
  fault : faultOf s.status = true → faultOf t.status = true

namespace KeepsFrame

variable {i : Instr} {s t : State}

theorem unchanged (i : Instr) (s : State) : KeepsFrame i s s :=
  ⟨.same, .same, .same, .same, rfl, fun _ => rfl, fun _ => ⟨rfl, rfl⟩, id⟩

theorem writeIr {a : RegIdx} (hd : destination i = .inIr a) (v : IdReg) : KeepsFrame i s (s.writeIr a v) :=
  { unchanged i s with ir := .write hd v }

theorem writeDr {a : RegIdx} (hd : destination i = .inDr a) (v : Data) : KeepsFrame i s (s.writeDr a v) :=
  { unchanged i s with dr := .write hd v }

theorem writeFr {a : RegIdx} (hd : destination i = .inFr a) (v : Frame) : KeepsFrame i s (s.writeFr a v) :=
  { unchanged i s with fr := .write hd v }

theorem writePr {a : RegIdx} (hd : destination i = .inPr a) (v : FramePriority) : KeepsFrame i s (s.writePr a v) :=
  { unchanged i s with pr := .write hd v }

theorem setRes0 (h : KeepsFrame i s t) (hn : resultCount i = 1) (w : Word) : KeepsFrame i s (t.setRes0 w) :=
  { h with res0 := fun h0 => absurd (hn.symm.trans h0) Nat.one_ne_zero }

theorem setRes (h : KeepsFrame i s t) (hn : resultCount i = 3) (w0 w1 w2 : Word) : KeepsFrame i s (t.setRes w0 w1 w2) :=
  { h with
    res0 := fun h0 => absurd (hn.symm.trans h0) (by decide)
    res12 := fun h3 => absurd hn h3 }

theorem complete (h : KeepsFrame i s t) : KeepsFrame i s t.complete :=
  { h with fault := fun hf => (faultOf_statusAfterOk _).trans (h.fault hf) }

theorem raise (i : Instr) (s : State) (e : ErrorCode) : KeepsFrame i s (s.raise e) :=
  { unchanged i s with fault := faultOf_statusAfterError e }

theorem sameRegistersBut (h : KeepsFrame i s t) : sameRegistersBut (destination i) s t :=
  ⟨h.ir.getElem?_eq, h.dr.getElem?_eq, h.fr.getElem?_eq, h.pr.getElem?_eq⟩

theorem sizes_eq (h : KeepsFrame i s t) : t.sizes = s.sizes := by
  simp only [State.sizes, h.ir.length_eq, h.dr.length_eq, h.fr.length_eq, h.pr.length_eq]

end KeepsFrame

/-! ### Commands -/

/-- A computation of the command `i` from `s` that keeps the frame if it succeeds. -/
def ComputesInFrame (i : Instr) (s : State) (r : Except ErrorCode State) : Prop := ∀ u, r = .ok u → KeepsFrame i s u

/-- An outcome of the command `i` from `s` whose next state, if it is one, keeps the frame. -/
def EndsInFrame (i : Instr) (s : State) (o : Host.Outcome State Fault Refusal) : Prop := ∀ t, o = .next t → KeepsFrame i s t

section
variable {i : Instr} {s : State}

theorem ComputesInFrame.bind {α : Type} {x : Except ErrorCode α} {f : α → Except ErrorCode State}
    (h : ∀ v, ComputesInFrame i s (f v)) : ComputesInFrame i s (x >>= f) := fun u hu => by
  obtain ⟨v, -, hf⟩ := except_bind_eq_ok.mp hu
  exact h v u hf

theorem ComputesInFrame.ret {u : State} (h : KeepsFrame i s u) : ComputesInFrame i s (pure u) := fun _ hu => by
  cases hu
  exact h

theorem ComputesInFrame.error (e : ErrorCode) : ComputesInFrame i s (throw e) := fun _ hu => nomatch hu

theorem endsInFrame_conclude {r : Except ErrorCode State} (hr : ComputesInFrame i s r) :
    EndsInFrame i s (conclude s r) := fun t ht => by
  rcases conclude_cases ht with ⟨u, hu, rfl⟩ | ⟨e, -, rfl⟩
  · exact (hr u hu).complete
  · exact .raise i s e

theorem endsInFrame_readToRes0 {α : Type} (hn : resultCount i = 1) (file : List (Option α)) (a : RegIdx) (f : α → Word) :
    EndsInFrame i s (readToRes0 file a f s) :=
  endsInFrame_conclude (.bind fun _ => .bind fun _ => .ret (.setRes0 (.unchanged i s) hn _))

theorem endsInFrame_readTwoToRes0 {α : Type} (hn : resultCount i = 1) (file : List (Option α)) (a b : RegIdx)
    (f : α → α → Word) : EndsInFrame i s (readTwoToRes0 file a b f s) :=
  endsInFrame_conclude
    (.bind fun _ => .bind fun _ => .bind fun _ => .bind fun _ => .ret (.setRes0 (.unchanged i s) hn _))

theorem endsInFrame_dataFrom {a : RegIdx} (hd : destination i = .inDr a) (k : Fin 9) (w1 w2 : Word) :
    EndsInFrame i s (dataFrom k a w1 w2 s) :=
  endsInFrame_conclude (.bind fun _ => .ret (.writeDr hd _))

end

section
variable (s : State)

theorem endsInFrame_dataNew (a : RegIdx) (len : BitVec 8) (w1 w2 : Word) :
    EndsInFrame (.dataNew a len w1 w2) s (execDataNew a len w1 w2 s) := by
  refine endsInFrame_conclude (.bind fun _ => ?_)
  cases boundedLength len with
  | some n => exact .ret (.writeDr rfl _)
  | none => exact .error _

theorem endsInFrame_frmData (a b : RegIdx) : EndsInFrame (.frmData a b) s (execFrmData a b s) := by
  refine endsInFrame_conclude (.bind fun _ => .bind fun _ => .bind fun fr => ?_)
  split
  · exact .ret (.setRes0 (.writeDr rfl _) rfl _)
  · exact .ret (.setRes0 (.unchanged _ _) rfl _)

/-- Every command keeps its frame: it writes its destination register and its results, or ends with an error. -/
theorem endsInFrame_exec (i : Instr) : EndsInFrame i s (exec i s) := by
  cases i with
  | idStd | idExt => exact endsInFrame_conclude (.bind fun _ => .bind fun _ => .ret (.writeIr rfl _))
  | idRtr => exact endsInFrame_conclude (.bind fun _ => .bind fun _ => .bind fun _ => .ret (.writeIr rfl _))
  | dataNew a len w1 w2 => exact endsInFrame_dataNew s a len w1 w2
  | dataEmpty => exact endsInFrame_conclude (.bind fun _ => .ret (.writeDr rfl _))
  | dataFrom0 | dataFrom1 | dataFrom2 | dataFrom3 | dataFrom4 | dataFrom5 | dataFrom6 | dataFrom7 | dataFrom8 =>
    exact endsInFrame_dataFrom rfl _ _ _
  | dataView => exact endsInFrame_conclude (.bind fun _ => .bind fun _ => .ret (.setRes (.unchanged _ _) rfl _ _ _))
  | dataRdb =>
    exact endsInFrame_conclude (.bind fun _ => .bind fun _ => .bind fun _ => .ret (.setRes0 (.unchanged _ _) rfl _))
  | dataWrb => exact endsInFrame_conclude (.bind fun _ => .bind fun _ => .bind fun _ => .ret (.writeDr rfl _))
  | frmNewd =>
    exact endsInFrame_conclude (.bind fun _ => .bind fun _ => .bind fun _ => .bind fun _ => .ret (.writeFr rfl _))
  | frmNewr => exact endsInFrame_conclude (.bind fun _ => .bind fun _ => .bind fun _ => .ret (.writeFr rfl _))
  | frmData a b => exact endsInFrame_frmData s a b
  | frmPrio => exact endsInFrame_conclude (.bind fun _ => .bind fun _ => .bind fun _ => .ret (.writePr rfl _))
  | arbSel => exact endsInFrame_conclude (.bind fun _ => .bind fun _ => .ret (.setRes0 (.unchanged _ _) rfl _))
  | idCmp | dataEq | priCmp => exact endsInFrame_readTwoToRes0 rfl _ _ _ _
  | idIsExt | idIsStd | idGetRtr | idToId | idRaw | dataLen | dataIsEmpty | frmIsExt | frmIsStd | frmIsRem | frmIsData
    | frmId | frmDlc => exact endsInFrame_readToRes0 rfl _ _ _

end

/-- Settles O51: the frame of each command, its registers read off the destination it may write. -/
theorem commandsKeepTheirFrame : Obligations.CommandsKeepTheirFrame := by
  intro i s t ht
  have h : KeepsFrame i s t := endsInFrame_exec s i t ht
  exact ⟨h.sameRegistersBut, h.sizes_eq, h.host, h.res0, h.res12⟩

/-! ### What a reset alone does -/

/-- FAULT stays set, and a register that holds a value keeps holding one: what every step but a reset keeps (10_state.md R36;
60_exceptions.md R251). -/
def KeepsMarks (s t : State) : Prop :=
  (faultOf s.status = true → faultOf t.status = true) ∧
  ∀ k : RegIdx, (∀ v, holds s.ir k v → ∃ w, holds t.ir k w) ∧ (∀ v, holds s.dr k v → ∃ w, holds t.dr k w) ∧
    (∀ v, holds s.fr k v → ∃ w, holds t.fr k w) ∧ (∀ v, holds s.pr k v → ∃ w, holds t.pr k w)

theorem KeepsFrame.keepsMarks {i : Instr} {s t : State} (h : KeepsFrame i s t) : KeepsMarks s t :=
  ⟨h.fault, fun _ => ⟨fun _ => h.ir.stays_written, fun _ => h.dr.stays_written, fun _ => h.fr.stays_written,
    fun _ => h.pr.stays_written⟩⟩

theorem KeepsMarks.of_same {s t : State} (hf : faultOf s.status = true → faultOf t.status = true)
    (hir : t.ir = s.ir) (hdr : t.dr = s.dr) (hfr : t.fr = s.fr) (hpr : t.pr = s.pr) : KeepsMarks s t := by
  refine ⟨hf, fun k => ?_⟩
  rw [hir, hdr, hfr, hpr]
  exact ⟨fun v hv => ⟨v, hv⟩, fun v hv => ⟨v, hv⟩, fun v hv => ⟨v, hv⟩, fun v hv => ⟨v, hv⟩⟩

/-- Settles O60: a reset is its own arm of the step, and every other arm only writes registers and STATUS codes. -/
theorem resetAloneUnwritesRegisters : Obligations.ResetAloneUnwritesRegisters := by
  refine ⟨fun s ws acts => rfl, fun s t hreset hst => ?_⟩
  show KeepsMarks s t
  rcases step_next_cases hst with ⟨-, rfl⟩ | ⟨_, _, -, rfl⟩ | ⟨ws, acts, hh, -⟩ |
    ⟨_, _, -, ⟨-, rfl⟩ | ⟨_, -, rfl⟩ | ⟨i, _, -, he⟩⟩
  · exact .of_same id rfl rfl rfl rfl
  · exact .of_same id rfl rfl rfl rfl
  · exact absurd hh (hreset ws acts)
  · exact .of_same id rfl rfl rfl rfl
  · exact .of_same (faultOf_statusAfterError _) rfl rfl rfl rfl
  · exact (endsInFrame_exec _ i t he).keepsMarks

end Sys2Proof.Machine
end

section
/-!
The flag bits of an IdReg (10_state.md R23, R24; 40_idreg.md R102, R103), and the invariant at reset (10_state.md R44).
-/

namespace Sys2Proof.Machine

open Sys2Proof.Safety

/-- Settles O15: the readers are single bits, and the replacer clears bit 1 and puts the flag there. -/
theorem flagBitsAreReadAndReplaced : Obligations.FlagBitsAreReadAndReplaced := by
  intro r f
  refine ⟨rfl, rfl, by simp [rtr], rfl, fun k => ?_⟩
  split
  case isTrue hk =>
    subst hk
    simp [setRtr]
  case isFalse hk => exact getLsbD_setRtr_of_ne r f hk

/-- Settles O58: reset leaves no register written, so only the reference sizes and STATUS are to check. -/
theorem resetMeetsTheInvariant : Obligations.ResetMeetsTheInvariant :=
  invariant_iff.mpr ⟨⟨(by decide : Config.referenceSizes.legal = true), allWritten_replicate_none _ _,
    allWritten_replicate_none _ _, allWritten_replicate_none _ _, allWritten_replicate_none _ _⟩,
    (by decide : statusLegal 0 = true)⟩

end Sys2Proof.Machine
end

section
/-!
The decoder reads an encoded command back and leaves the words after it (30_encoding.md R70, R71, R77, R82).
-/

namespace Sys2Proof

/-- Every command's encoding is a legal header of its row with the row's operand words. -/
theorem packetShape (i : Instr) : Laws.PacketShape.Statement i := by
  cases i with
  | idStd => exact Laws.PacketShape.idStd ..
  | idExt => exact Laws.PacketShape.idExt ..
  | idRtr => exact Laws.PacketShape.idRtr ..
  | idIsExt => exact Laws.PacketShape.idIsExt ..
  | idIsStd => exact Laws.PacketShape.idIsStd ..
  | idGetRtr => exact Laws.PacketShape.idGetRtr ..
  | idToId => exact Laws.PacketShape.idToId ..
  | idCmp => exact Laws.PacketShape.idCmp ..
  | idRaw => exact Laws.PacketShape.idRaw ..
  | dataNew => exact Laws.PacketShape.dataNew ..
  | dataEmpty => exact Laws.PacketShape.dataEmpty ..
  | dataLen => exact Laws.PacketShape.dataLen ..
  | dataIsEmpty => exact Laws.PacketShape.dataIsEmpty ..
  | dataView => exact Laws.PacketShape.dataView ..
  | dataRdb => exact Laws.PacketShape.dataRdb ..
  | dataWrb => exact Laws.PacketShape.dataWrb ..
  | dataEq => exact Laws.PacketShape.dataEq ..
  | dataFrom0 => exact Laws.PacketShape.dataFrom0 ..
  | dataFrom1 => exact Laws.PacketShape.dataFrom1 ..
  | dataFrom2 => exact Laws.PacketShape.dataFrom2 ..
  | dataFrom3 => exact Laws.PacketShape.dataFrom3 ..
  | dataFrom4 => exact Laws.PacketShape.dataFrom4 ..
  | dataFrom5 => exact Laws.PacketShape.dataFrom5 ..
  | dataFrom6 => exact Laws.PacketShape.dataFrom6 ..
  | dataFrom7 => exact Laws.PacketShape.dataFrom7 ..
  | dataFrom8 => exact Laws.PacketShape.dataFrom8 ..
  | frmNewd => exact Laws.PacketShape.frmNewd ..
  | frmNewr => exact Laws.PacketShape.frmNewr ..
  | frmIsExt => exact Laws.PacketShape.frmIsExt ..
  | frmIsStd => exact Laws.PacketShape.frmIsStd ..
  | frmIsRem => exact Laws.PacketShape.frmIsRem ..
  | frmIsData => exact Laws.PacketShape.frmIsData ..
  | frmId => exact Laws.PacketShape.frmId ..
  | frmDlc => exact Laws.PacketShape.frmDlc ..
  | frmData => exact Laws.PacketShape.frmData ..
  | frmPrio => exact Laws.PacketShape.frmPrio ..
  | priCmp => exact Laws.PacketShape.priCmp ..
  | arbSel => exact Laws.PacketShape.arbSel ..

@[simp] theorem immLow_mkHeader_low8 (op : BitVec 8) (a b : RegIdx) (x : BitVec 8) :
    immLow (mkHeader op a b (x.zeroExtend 18)) = x := by
  rw [immLow, extract_imm_mkHeader (h := by decide)]
  exact BitVec.eq_of_getLsbD_eq fun i hi => by simp [hi, show i < 18 by omega]

@[simp] theorem immIdx_mkHeader_idx (op : BitVec 8) (a b : RegIdx) (x : BitVec 3) :
    immIdx (mkHeader op a b (x.zeroExtend 18 <<< 8)) = x := by
  rw [immIdx, extract_imm_mkHeader (h := by decide)]
  revert x; decide

@[simp] theorem immFlag_mkHeader_flag (op : BitVec 8) (a b : RegIdx) (x : BitVec 1) :
    immFlag (mkHeader op a b (x.zeroExtend 18)) = x := by
  rw [immFlag, extract_imm_mkHeader (h := by decide)]
  revert x; decide

@[simp] theorem immIdx_mkHeader_idx_byte (op : BitVec 8) (a b : RegIdx) (x : BitVec 3) (y : BitVec 8) :
    immIdx (mkHeader op a b (x.zeroExtend 18 <<< 8 ||| y.zeroExtend 18)) = x := by
  rw [immIdx, extract_imm_mkHeader (h := by decide)]
  exact BitVec.eq_of_getLsbD_eq fun i hi => by simp [hi, show 8 + i < 18 by omega]

@[simp] theorem immLow_mkHeader_idx_byte (op : BitVec 8) (a b : RegIdx) (x : BitVec 3) (y : BitVec 8) :
    immLow (mkHeader op a b (x.zeroExtend 18 <<< 8 ||| y.zeroExtend 18)) = y := by
  rw [immLow, extract_imm_mkHeader (h := by decide)]
  exact BitVec.eq_of_getLsbD_eq fun i hi => by simp [hi, show i < 18 by omega]

/-- The decoder's fields of an encoded command are the command's own. -/
theorem build_encode {i : Instr} {h : Word} {ops : List Word} (he : encode i = h :: ops) :
    build h (ops.getD 0 0) (ops.getD 1 0) i.mnemonic = i := by
  cases i <;> obtain ⟨rfl, rfl⟩ := List.cons.inj he <;> simp [build, Instr.mnemonic]

/-- The decoder reads an encoded command back and leaves the words after it. -/
theorem decode_encode_append (i : Instr) (ws : List Word) : decode (encode i ++ ws) = .command i ws := by
  obtain ⟨h, ops, he, hop, hlegal, hn⟩ := packetShape i
  rw [he, Machine.decode_packet ws hop hn, if_pos (by simpa [headerLegal] using hlegal), build_encode he]

end Sys2Proof
end

section
/-!
The step on the host's next action (20_memory.md R54 to R58; 70_reset_and_hazards.md R271, R273): a legal packet executes its
command, and a truncated packet alone stops the block.
-/

namespace Sys2Proof.Machine

open Sys2Proof.Safety

/-- Every command ends with a state it computed or with an error. -/
theorem exec_eq_conclude (i : Instr) (s : State) : ∃ r, exec i s = conclude s r := by
  cases i <;> exact ⟨_, rfl⟩

/-- No command stops the block (60_exceptions.md R252). -/
theorem exec_next (i : Instr) (s : State) : ∃ t, exec i s = .next t := by
  obtain ⟨r, hr⟩ := exec_eq_conclude i s
  exact hr ▸ conclude_next s r

/-- A step on a presented command executes it, with the words after it left to present. -/
theorem step_command {s : State} {ws rest : List Word} {acts : List HostAction} {i : Instr}
    (hh : s.host = .issue ws :: acts) (hd : decode ws = .command i rest) :
    step s = exec i { s with host := afterPacket rest acts } := by
  simp only [step, hh, hd, presentRest_eq_afterPacket]

/-- A step answers a next state unless the host presents a truncated packet, which it refuses. -/
theorem step_next_or_truncated (s : State) :
    (∃ t, step s = .next t) ∨
      (step s = .refused .truncatedPacket ∧ ∃ ws acts, s.host = .issue ws :: acts ∧ decode ws = .truncated) := by
  unfold step
  split
  case h_4 ws acts hh =>
    split
    case h_1 i rest _ => exact .inl (exec_next i _)
    case h_3 hd => exact .inr ⟨rfl, ws, acts, hh, hd⟩
    all_goals exact .inl ⟨_, rfl⟩
  all_goals exact .inl ⟨_, rfl⟩

/-- Settles O7: either way the step executes the command and leaves the further words as the host's next action. -/
theorem runOfPacketsIsTheirSequence : Obligations.RunOfPacketsIsTheirSequence := by
  intro s i ws acts hws
  have halone : decode (encode i) = .command i [] := by simpa using decode_encode_append i []
  rw [step_command rfl (decode_encode_append i ws), step_command rfl halone]
  simp [afterPacket, hws]

/-- Settles O8: every arm of the step but that of a truncated packet answers a next state. -/
theorem onlyTruncatedPacketsStop : Obligations.OnlyTruncatedPacketsStop := by
  refine ⟨fun s => (step_next_or_truncated s).imp_right And.left, fun s => ⟨fun hs => ?_, ?_⟩, exec_next⟩
  · obtain ⟨t, ht⟩ | ⟨-, hh⟩ := step_next_or_truncated s
    · rw [ht] at hs
      cases hs
    · exact hh
  · rintro ⟨ws, acts, hh, hd⟩
    simp only [step, hh, hd]

/-- Settles O6: the step's arm for a legal packet. -/
theorem stepExecutesTheDecodedCommand : Obligations.StepExecutesTheDecodedCommand :=
  fun _ _ _ _ _ => step_command

/-- Settles O9: the step's arms for no action and for a host read. -/
theorem waitingAndHostReadsChangeNothing : Obligations.WaitingAndHostReadsChangeNothing := by
  intro s p acts
  refine ⟨fun hh => ?_, rfl, rfl, rfl, rfl, rfl⟩
  simp only [step, hh]

end Sys2Proof.Machine
end

section
/-!
Payload lanes in words (20_memory.md R52; 41_data.md R140, R141): byte `i mod 4` of word `i div 4`, both ways.
-/

namespace Sys2Proof.Machine

/-- Lane `k` of a packed word is the lane it was packed from. -/
theorem laneOf_packWord (l : Fin 4 → Byte) (k : Fin 4) : laneOf (packWord (l 0) (l 1) (l 2) (l 3)) k = l k := by
  refine BitVec.eq_of_getLsbD_eq fun j hj => ?_
  simp only [laneOf, packWord, BitVec.getLsbD_extractLsb', hj, BitVec.getLsbD_append]
  match k with
  | 0 => simp [hj]
  | 1 => simp [hj]
  | 2 => simp [show ¬ 16 + j < 8 by omega, show 16 + j - 8 = 8 + j by omega, hj]
  | 3 =>
    simp [show ¬ 24 + j < 8 by omega, show ¬ 16 + j < 8 by omega, show 24 + j - 8 = 16 + j by omega,
      show 16 + j - 8 = 8 + j by omega]

theorem laneOf_add_four (w : Word) (k : Nat) : laneOf w (4 + k) = laneOf w k := by
  simp [laneOf]

/-- Lane `i` of the bounded view stands in its byte of the view words. -/
theorem laneOf_viewWords (d : Data) (i : Fin 8) :
    laneOf (if i.val / 4 = 0 then viewWordLow d else viewWordHigh d) i = viewLane d i := by
  induction i using Fin.addCases (m := 4) (n := 4) with
  | left k =>
    rw [Fin.val_castAdd, if_pos (Nat.div_eq_of_lt k.isLt)]
    exact laneOf_packWord (fun k => viewLane d (k.castAdd 4)) k
  | right k =>
    rw [if_neg (by simp), Fin.val_natAdd, laneOf_add_four]
    exact laneOf_packWord (fun k => viewLane d (k.natAdd 4)) k

/-- Settles O12: lane `i` of either pair of words is byte `i mod 4` of the word `i div 4` selects. -/
theorem lanesArePackedLittleEndian : Obligations.LanesArePackedLittleEndian := by
  refine ⟨fun w1 w2 i => ?_, fun n l i => ⟨rfl, mkData_lane n l i⟩, laneOf_viewWords, by decide⟩
  rw [lanes_lane]
  simp only [Nat.div_eq_zero_iff_lt (by decide : 0 < 4)]
  split <;> rfl

end Sys2Proof.Machine
end

section
/-!
The read-only commands (20_memory.md R56): they write results and STATUS alone, so that the same command run again answers the
state it left.
-/

namespace Sys2Proof.Machine

open Sys2Proof.Safety

/-! ### Files a command does not write -/

/-- A file in which the command has no destination is as it was. -/
theorem WritesOnly.eq_of_ne {α : Type} {d : Destination} {inThisFile : RegIdx → Destination} {file file' : List (Option α)}
    (h : WritesOnly d inThisFile file file') (hd : ∀ a, d ≠ inThisFile a) : file' = file := by
  obtain rfl | ⟨a, _, hda, -⟩ := h
  · rfl
  · exact absurd hda (hd a)

theorem destination_of_readOnly {i : Instr} (hi : readOnly i = true) : destination i = .noRegister := by
  cases i <;> cases hi <;> rfl

/-! ### Repetition -/

/-- A computation that ends the same way from every state: with one error, or with the same results written. -/
inductive WritesResults : (State → Except ErrorCode State) → Prop where
  | error (e : ErrorCode) : WritesResults fun _ => .error e
  | setRes0 (w : Word) : WritesResults fun s => .ok (s.setRes0 w)
  | setRes (w0 w1 w2 : Word) : WritesResults fun s => .ok (s.setRes w0 w1 w2)

/-- A check or read whose outcome is the same from every state may come first. -/
theorem WritesResults.bind {α : Type} {x : Except ErrorCode α} {r : α → State → Except ErrorCode State}
    (h : ∀ v, WritesResults (r v)) : WritesResults fun s => x >>= fun v => r v s := by
  cases x with
  | error e => exact .error e
  | ok v => exact h v

theorem statusFault_statusWord (code : BitVec 4) (fault : Bool) : statusFault (statusWord code fault) = fault := by
  simp [statusFault, statusWord]

theorem statusAfterOk_idem (st : Word) : statusAfterOk (statusAfterOk st) = statusAfterOk st := by
  simp only [statusAfterOk, statusFault_statusWord]

theorem statusAfterError_idem (e : ErrorCode) (st : Word) :
    statusAfterError e (statusAfterError e st) = statusAfterError e st := by
  simp only [statusAfterError, statusFault_statusWord, Bool.or_assoc, Bool.or_self]

section
variable {s t : State}

/-- The results written once are written again, and STATUS already holds what it gets. -/
theorem conclude_repeats {r : State → Except ErrorCode State} (hr : WritesResults r) (h : conclude s (r s) = .next t) :
    conclude t (r t) = .next t := by
  cases hr <;> obtain rfl := Host.Outcome.next.inj h <;>
    simp [State.raise, State.complete, State.setRes0, State.setRes, statusAfterOk_idem, statusAfterError_idem]

theorem readToRes0_repeats {α : Type} {file file' : List (Option α)} {a : RegIdx} {f : α → Word} (hf : file' = file)
    (h : readToRes0 file a f s = .next t) : readToRes0 file' a f t = .next t := by
  subst hf
  exact conclude_repeats (.bind fun _ => .bind fun _ => .setRes0 _) h

theorem readTwoToRes0_repeats {α : Type} {file file' : List (Option α)} {a b : RegIdx} {f : α → α → Word}
    (hf : file' = file) (h : readTwoToRes0 file a b f s = .next t) : readTwoToRes0 file' a b f t = .next t := by
  subst hf
  exact conclude_repeats (.bind fun _ => .bind fun _ => .bind fun _ => .bind fun _ => .setRes0 _) h

theorem dataView_repeats {a : RegIdx} (hf : t.dr = s.dr) (h : execDataView a s = .next t) : execDataView a t = .next t := by
  unfold execDataView
  rw [hf]
  exact conclude_repeats (.bind fun _ => .bind fun _ => .setRes _ _ _) h

theorem dataRdb_repeats {a : RegIdx} {idx : BitVec 3} (hf : t.dr = s.dr) (h : execDataRdb a idx s = .next t) :
    execDataRdb a idx t = .next t := by
  unfold execDataRdb
  rw [hf]
  exact conclude_repeats (.bind fun _ => .bind fun _ => .bind fun _ => .setRes0 _) h

theorem arbSel_repeats {mask : BitVec 8} (hf : t.pr = s.pr) (h : execArbSel mask s = .next t) :
    execArbSel mask t = .next t := by
  unfold execArbSel
  rw [hf]
  exact conclude_repeats (.bind fun _ => .bind fun _ => .setRes0 _) h

/-- A read-only command answers the state it left. -/
theorem exec_repeats {i : Instr} (hi : readOnly i = true) (hir : t.ir = s.ir) (hdr : t.dr = s.dr) (hfr : t.fr = s.fr)
    (hpr : t.pr = s.pr) (h : exec i s = .next t) : exec i t = .next t := by
  cases i with
  | idIsExt | idIsStd | idGetRtr | idToId | idRaw => exact readToRes0_repeats hir h
  | dataLen | dataIsEmpty => exact readToRes0_repeats hdr h
  | frmIsExt | frmIsStd | frmIsRem | frmIsData | frmId | frmDlc => exact readToRes0_repeats hfr h
  | idCmp => exact readTwoToRes0_repeats hir h
  | dataEq => exact readTwoToRes0_repeats hdr h
  | priCmp => exact readTwoToRes0_repeats hpr h
  | dataView => exact dataView_repeats hdr h
  | dataRdb => exact dataRdb_repeats hdr h
  | arbSel => exact arbSel_repeats hpr h
  | _ => exact absurd hi Bool.false_ne_true

end

/-- Settles O50: no register is a destination of such a command, and it reads registers alone. -/
theorem readOnlyCommandsRepeat : Obligations.ReadOnlyCommandsRepeat := by
  refine ⟨fun i s hi => ?_, fun _ _ _ => rfl⟩
  obtain ⟨t, ht⟩ := exec_next i s
  have hk : KeepsFrame i s t := endsInFrame_exec s i t ht
  have hd : destination i = .noRegister := destination_of_readOnly hi
  have hir : t.ir = s.ir := hk.ir.eq_of_ne (by simp [hd])
  have hdr : t.dr = s.dr := hk.dr.eq_of_ne (by simp [hd])
  have hfr : t.fr = s.fr := hk.fr.eq_of_ne (by simp [hd])
  have hpr : t.pr = s.pr := hk.pr.eq_of_ne (by simp [hd])
  exact ⟨t, ht, hir, hdr, hfr, hpr, hk.host, exec_repeats hi hir hdr hfr hpr ht⟩

end Sys2Proof.Machine
end

section
/-!
Copies (20_memory.md R63): a later write to the source's file leaves the file that holds the copy as it is.
-/

namespace Sys2Proof.Machine

open Sys2Proof.Safety

/-- The standard packer in raw bits (40_idreg.md R100). -/
theorem packStd_eq (v : BitVec 11) : packStd v = (v.zeroExtend 32 <<< 21) ||| 4 := by
  refine BitVec.eq_of_getLsbD_eq fun i hi => ?_
  interval_cases i <;> simp [packStd]

/-- The raw bits of an IDW's IdReg are those of the Id it decodes to (40_idreg.md R109). -/
theorem decodeIdW_of_idRegOfIdW {w : Word} {r : IdReg} (h : idRegOfIdW w = some r) :
    ∃ id, decodeIdW w = .ok id ∧ idRegOf id = r := by
  unfold idRegOfIdW at h
  split at h
  case isTrue ht =>
    obtain ⟨hx, ⟨⟩⟩ := Option.ite_none_right_eq_some.mp h
    exact ⟨.extended (w.extractLsb' 0 29), (if_neg (ne_false_of_eq_true ht)).trans (if_pos hx), rfl⟩
  case isFalse ht =>
    obtain ⟨hx, ⟨⟩⟩ := Option.ite_none_right_eq_some.mp h
    exact ⟨.standard (w.extractLsb' 0 11), (if_pos (Bool.eq_false_of_not_eq_true ht)).trans (if_pos hx), packStd_eq _⟩

theorem checkView_of_lt {d : Data} {idx : BitVec 3} (h : idx.toNat < d.len.val) : checkView d idx = .ok () := if_pos h

/-- `DATA.WRB` on a lane within the length writes it (41_data.md R159). -/
theorem exec_dataWrb_of_lt {a : RegIdx} {idx : BitVec 3} {s : State} {d : Data} (byte : Byte) (hd : holds s.dr a d)
    (hi : idx.toNat < d.len.val) : exec (.dataWrb a idx byte) s =
      .next (s.writeDr a { d with buf := d.buf.set (laneIndex idx) byte }).complete := by
  simp [exec, execDataWrb, checkIndex_of_lt (lt_of_getElem?_some hd), readReg_of_some hd, checkView_of_lt hi]

/-- `FRM.NEWD` with valid operands writes the new frame (42_frame.md R181). -/
theorem exec_frmNewd_of_valid {a b : RegIdx} {w : Word} {s : State} {r : IdReg} {d : Data} (ha : inFile s.fr a)
    (hd : holds s.dr b d) (hr : idRegOfIdW w = some r) : exec (.frmNewd a b w) s = .next (s.writeFr a ⟨r, d⟩).complete := by
  obtain ⟨id, hid, rfl⟩ := decodeIdW_of_idRegOfIdW hr
  simp [exec, execFrmNewd, checkIndex_of_lt ha, checkIndex_of_lt (lt_of_getElem?_some hd), readReg_of_some hd, hid]

/-- Settles O52: `DATA.WRB` writes no frame, and `FRM.NEWD` no key. -/
theorem copiesAreIndependentOfTheirSource : Obligations.CopiesAreIndependentOfTheirSource := by
  refine ⟨fun f d w idx byte s t fr old _ hfr hdr hidx => ?_, fun p f d w s t key _ hkey => ?_⟩
  · exact ⟨_, _, exec_dataWrb_of_lt byte hdr hidx, hfr, writeReg_same _ (lt_of_getElem?_some hdr),
      Vector.getElem_set_self ..⟩
  · obtain ⟨u, hu⟩ := exec_next (.frmNewd f d w) t
    have hpr : u.pr = t.pr := (endsInFrame_exec t _ u hu).pr.eq_of_ne fun _ => nofun
    refine ⟨u, hu, hpr ▸ hkey, fun r x hf hx hr => ?_⟩
    obtain rfl := Host.Outcome.next.inj (hu.symm.trans (exec_frmNewd_of_valid hf hx hr))
    exact writeReg_same _ hf

end Sys2Proof.Machine
end

section
/-!
The decoder inverted (30_encoding.md R70 to R72, R79 to R82): which packets it reads, how many words each takes, and the
command of a legal header encoded back to the words it was read from.
-/

namespace Sys2Proof

open Sys2Proof.Machine Sys2Proof.Safety

/-! ### Rows and packet lengths -/

/-- An opcode is of no row exactly when the map selects none for it. -/
theorem rowOf_eq_none {op : BitVec 8} : rowOf op = none ↔ ∀ m, opcode m ≠ op := by
  constructor
  · rintro h m rfl
    exact absurd h (by simp [rowOf_opcode])
  · intro h
    cases hr : rowOf op with
    | none => rfl
    | some m => exact absurd (opcode_of_rowOf hr) (h m)

theorem operandCount_le_two (m : Mnemonic) : operandCount m ≤ 2 := by
  cases m <;> decide

theorem packetOperands_of_row {h : Word} {m : Mnemonic} (ho : headerOp h = opcode m) :
    packetOperands h = operandCount m := by
  simp only [packetOperands, ho, rowOf_opcode]

theorem packetOperands_of_noRow {h : Word} (ho : rowOf (headerOp h) = none) : packetOperands h = 0 := by
  simp only [packetOperands, ho]

/-- The op lists of R72 give every opcode the operand-word count of its row. -/
theorem packetOperands_eq (h : Word) :
    packetOperands h =
      if (headerOp h).toNat ∈ [0x10, 0x11, 0x31, 0x32, 0x33, 0x34, 0x40, 0x41] then 1
      else if (headerOp h).toNat ∈ [0x20, 0x35, 0x36, 0x37, 0x38] then 2 else 0 := by
  cases hr : rowOf (headerOp h) with
  | some m =>
    rw [packetOperands_of_row (opcode_of_rowOf hr).symm, ← opcode_of_rowOf hr]
    cases m <;> rfl
  | none =>
    have assigned : ∀ k ∈ [0x10, 0x11, 0x31, 0x32, 0x33, 0x34, 0x40, 0x41] ++ [0x20, 0x35, 0x36, 0x37, 0x38],
        rowOf (BitVec.ofNat 8 k) ≠ none := by decide
    have hr' : rowOf (BitVec.ofNat 8 (headerOp h).toNat) = none := by simpa using hr
    rw [packetOperands_of_noRow hr, if_neg fun hm => assigned _ (List.mem_append_left _ hm) hr',
      if_neg fun hm => assigned _ (List.mem_append_right _ hm) hr']

/-- The command built for a row is of that row. -/
theorem mnemonic_build (h w1 w2 : Word) (m : Mnemonic) : (build h w1 w2 m).mnemonic = m := by
  cases m <;> rfl

/-! ### What the decoder answers -/

theorem decode_of_noRow {h : Word} (ws : List Word) (ho : rowOf (headerOp h) = none) : decode (h :: ws) = .illegal ws := by
  simp only [decode, ho]

/-- With fewer words than the opcode's operands the packet is truncated. -/
theorem decode_of_short {h : Word} {ws : List Word} (hn : ws.length < packetOperands h) : decode (h :: ws) = .truncated := by
  cases hr : rowOf (headerOp h) with
  | none => simp [packetOperands_of_noRow hr] at hn
  | some m =>
    rw [packetOperands_of_row (opcode_of_rowOf hr).symm] at hn
    simp only [decode, hr, if_pos hn]

/-- A header is of no row, or its packet is truncated, or the operand words of its row follow it. -/
theorem framing_cases (h : Word) (ws : List Word) :
    rowOf (headerOp h) = none ∨ ws.length < packetOperands h ∨
      ∃ m ops rest, headerOp h = opcode m ∧ ops.length = operandCount m ∧ ws = ops ++ rest := by
  cases hr : rowOf (headerOp h) with
  | none => exact .inl rfl
  | some m =>
    have ho : headerOp h = opcode m := (opcode_of_rowOf hr).symm
    refine .inr ((Nat.lt_or_ge ws.length (packetOperands h)).imp_right fun hn => ?_)
    rw [packetOperands_of_row ho] at hn
    exact ⟨m, ws.take (operandCount m), ws.drop (operandCount m), ho, List.length_take_of_le hn,
      (List.take_append_drop ..).symm⟩

/-- The decoder answers a command for a legal header of a row with its operand words alone. -/
theorem decode_eq_command {ws rest : List Word} {i : Instr} (hd : decode ws = .command i rest) :
    ∃ h ops m, ws = h :: ops ++ rest ∧ ops.length = operandCount m ∧ headerLegal m h = true ∧
      i = build h (ops.getD 0 0) (ops.getD 1 0) m := by
  cases ws with
  | nil => cases hd
  | cons h ws =>
    obtain ho | hn | ⟨m, ops, rest', ho, hn, rfl⟩ := framing_cases h ws
    · cases (decode_of_noRow ws ho).symm.trans hd
    · cases (decode_of_short hn).symm.trans hd
    · rw [← List.cons_append, decode_packet rest' ho hn] at hd
      split at hd
      case isFalse => cases hd
      case isTrue hl =>
        cases hd
        exact ⟨h, ops, m, rfl, hn, by simpa [headerLegal] using hl, rfl⟩

/-- The decoder leaves exactly the words after the opcode's operands. -/
theorem decode_of_enough {h : Word} {ws : List Word} (hn : packetOperands h ≤ ws.length) :
    decode (h :: ws) = .illegal (ws.drop (packetOperands h)) ∨
      ∃ i, decode (h :: ws) = .command i (ws.drop (packetOperands h)) := by
  obtain ho | hlt | ⟨m, ops, rest, ho, hlen, rfl⟩ := framing_cases h ws
  · exact .inl (by rw [decode_of_noRow ws ho, packetOperands_of_noRow ho, List.drop_zero])
  · exact absurd hlt (Nat.not_lt.mpr hn)
  · rw [packetOperands_of_row ho, ← hlen, List.drop_left, ← List.cons_append, decode_packet rest ho hlen]
    split
    · exact .inr ⟨_, rfl⟩
    · exact .inl rfl

/-! ### A legal header is encoded from its fields -/

theorem headerMatch_eq_mkHeader (m : Mnemonic) : headerMatch m = mkHeader (opcode m) 0 0 0 := by
  cases m <;> rfl

/-- A legal header of a row is the row's opcode with its fields, those under the mask 0. -/
theorem mkHeader_of_legal {m : Mnemonic} {h : Word} (ma mb : RegIdx) (mi : BitVec 18) {a b : RegIdx} {imm : BitVec 18}
    (hl : headerLegal m h = true) (hm : fixedMask m = mkHeader 0xff ma mb mi)
    (ha : headerA h &&& ma = 0 → a = headerA h) (hb : headerB h &&& mb = 0 → b = headerB h)
    (hi : h.extractLsb' 0 18 &&& mi = 0 → imm = h.extractLsb' 0 18) : mkHeader (opcode m) a b imm = h := by
  have hfields : mkHeader (headerOp h) (headerA h) (headerB h) (h.extractLsb' 0 18) &&& fixedMask m = headerMatch m := by
    rw [mkHeader_fields]
    simpa [headerLegal] using hl
  rw [hm, headerMatch_eq_mkHeader, mkHeader_and, mkHeader_inj] at hfields
  obtain ⟨hop, ha0, hb0, hi0⟩ := hfields
  have hop' : headerOp h = opcode m := (BitVec.and_allOnes (x := headerOp h)).symm.trans hop
  rw [ha ha0, hb hb0, hi hi0, ← hop', mkHeader_fields]

/-- A register field that is reserved is 0. -/
theorem regField_eq_zero {x : RegIdx} (h : x &&& 7 = 0) : 0 = x := by
  revert x; decide

/-- An IMM field that is reserved throughout is 0. -/
theorem imm_eq_zero {x : BitVec 18} (h : x &&& 0x3ffff = 0) : 0 = x :=
  h.symm.trans BitVec.and_allOnes

/-- A bit under the mask is 0 in a field that avoids the mask. -/
theorem getLsbD_of_and_eq_zero {w : Nat} {x mask : BitVec w} (h : x &&& mask = 0) {i : Nat} (hi : mask.getLsbD i = true) :
    x.getLsbD i = false := by
  simpa [hi] using congrArg (fun v : BitVec w => v.getLsbD i) h

/-- IMM with bits 17:8 reserved is its 8 low bits. -/
theorem zeroExtend_immLow {h : Word} (hi : h.extractLsb' 0 18 &&& 0x3ff00 = 0) :
    (immLow h).zeroExtend 18 = h.extractLsb' 0 18 := by
  refine BitVec.eq_of_getLsbD_eq fun i hlt => ?_
  have hzero := getLsbD_of_and_eq_zero hi (i := i)
  interval_cases i <;> simp_all [immLow]

/-- IMM with bits 17:1 reserved is F. -/
theorem zeroExtend_immFlag {h : Word} (hi : h.extractLsb' 0 18 &&& 0x3fffe = 0) :
    (immFlag h).zeroExtend 18 = h.extractLsb' 0 18 := by
  refine BitVec.eq_of_getLsbD_eq fun i hlt => ?_
  have hzero := getLsbD_of_and_eq_zero hi (i := i)
  interval_cases i <;> simp_all [immFlag]

/-- IMM with bits 17:11 reserved is IDX above BYTE. -/
theorem immIdx_or_immLow {h : Word} (hi : h.extractLsb' 0 18 &&& 0x3f800 = 0) :
    (immIdx h).zeroExtend 18 <<< 8 ||| (immLow h).zeroExtend 18 = h.extractLsb' 0 18 := by
  refine BitVec.eq_of_getLsbD_eq fun i hlt => ?_
  have hzero := getLsbD_of_and_eq_zero hi (i := i)
  interval_cases i <;> simp_all [immIdx, immLow]

/-- IMM with bits 17:11 and 7:0 reserved is IDX. -/
theorem shifted_immIdx {h : Word} (hi : h.extractLsb' 0 18 &&& 0x3f8ff = 0) :
    (immIdx h).zeroExtend 18 <<< 8 = h.extractLsb' 0 18 := by
  refine BitVec.eq_of_getLsbD_eq fun i hlt => ?_
  have hzero := getLsbD_of_and_eq_zero hi (i := i)
  interval_cases i <;> simp_all [immIdx]

section
variable {m : Mnemonic} {h : Word}

/-- A legal header of a row whose only field is A. -/
theorem mkHeader_headerA (hl : headerLegal m h = true) (hm : fixedMask m = 0xFF1FFFFF) :
    mkHeader (opcode m) (headerA h) 0 0 = h :=
  mkHeader_of_legal 0 7 0x3ffff hl hm (fun _ => rfl) regField_eq_zero imm_eq_zero

/-- A legal header of a row whose fields are A and B. -/
theorem mkHeader_headerA_headerB (hl : headerLegal m h = true) (hm : fixedMask m = 0xFF03FFFF) :
    mkHeader (opcode m) (headerA h) (headerB h) 0 = h :=
  mkHeader_of_legal 0 0 0x3ffff hl hm (fun _ => rfl) (fun _ => rfl) imm_eq_zero

/-- A legal header of a row whose fields are A and a low byte. -/
theorem mkHeader_headerA_immLow (hl : headerLegal m h = true) (hm : fixedMask m = 0xFF1FFF00) :
    mkHeader (opcode m) (headerA h) 0 ((immLow h).zeroExtend 18) = h :=
  mkHeader_of_legal 0 7 0x3ff00 hl hm (fun _ => rfl) regField_eq_zero zeroExtend_immLow

end

/-- The encoder writes the command of a legal header as that header and its operand words. -/
theorem encode_build {m : Mnemonic} {h : Word} {ops : List Word} (hl : headerLegal m h = true)
    (hn : ops.length = operandCount m) : encode (build h (ops.getD 0 0) (ops.getD 1 0) m) = h :: ops := by
  have hops : [ops.getD 0 0, ops.getD 1 0].take (operandCount m) = ops := by
    match ops, hn with
    | [], hn | [_], hn | [_, _], hn => rw [← hn]; rfl
    | _ :: _ :: _ :: _, hn => exact absurd (operandCount_le_two m) (by simp [← hn])
  conv_rhs => rw [← hops]
  cases m with
  | idRtr =>
    have hheader := mkHeader_of_legal 0 0 0x3fffe hl rfl (fun _ => rfl) (fun _ => rfl) zeroExtend_immFlag
    exact congrArg (· :: _) hheader
  | dataRdb =>
    have hheader := mkHeader_of_legal 0 7 0x3f8ff hl rfl (fun _ => rfl) regField_eq_zero shifted_immIdx
    exact congrArg (· :: _) hheader
  | dataWrb =>
    have hheader := mkHeader_of_legal 0 7 0x3f800 hl rfl (fun _ => rfl) regField_eq_zero immIdx_or_immLow
    exact congrArg (· :: _) hheader
  | arbSel =>
    have hheader := mkHeader_of_legal 7 7 0x3ff00 hl rfl regField_eq_zero regField_eq_zero zeroExtend_immLow
    exact congrArg (· :: _) hheader
  | dataNew | frmNewr =>
    have hheader := mkHeader_headerA_immLow hl rfl
    exact congrArg (· :: _) hheader
  | idCmp | dataEq | frmNewd | frmData | frmPrio | priCmp =>
    have hheader := mkHeader_headerA_headerB hl rfl
    exact congrArg (· :: _) hheader
  | idStd | idExt | idIsExt | idIsStd | idGetRtr | idToId | idRaw | dataEmpty | dataLen | dataIsEmpty | dataView
    | dataFrom0 | dataFrom1 | dataFrom2 | dataFrom3 | dataFrom4 | dataFrom5 | dataFrom6 | dataFrom7 | dataFrom8
    | frmIsExt | frmIsStd | frmIsRem | frmIsData | frmId | frmDlc =>
    have hheader := mkHeader_headerA hl rfl
    exact congrArg (· :: _) hheader

/-! ### The obligations -/

/-- Settles O1: the words of a command are a legal header and its operands, which its encoding gives back. -/
theorem decodeReadsExactlyTheEncoding : Obligations.DecodeReadsExactlyTheEncoding := by
  intro ws i rest
  constructor
  · intro hd
    obtain ⟨h, ops, m, rfl, hn, hl, rfl⟩ := decode_eq_command hd
    rw [encode_build hl hn]
  · rintro rfl
    exact decode_encode_append i rest

/-- Settles O4: the packet's length is the operand count of the header's row. -/
theorem packetLengthComesFromOpcode : Obligations.PacketLengthComesFromOpcode := by
  intro h ws
  have hn := packetOperands_eq h
  unfold headerOp at hn
  simp only [← hn]
  exact ⟨decode_of_short, decode_of_enough⟩

/-- Settles O5: a header of no row is a packet by itself, and one of a row has its operands whether it is legal or not. -/
theorem illegalHeadersRaiseIllegalCommand : Obligations.IllegalHeadersRaiseIllegalCommand := by
  intro h ops rest acts s
  refine ⟨fun hno => ?_, fun m ho hn hbad => ?_, fun m ho hn hok => ?_, fun m => ?_⟩
  · rw [step_issue, decode_of_noRow rest (rowOf_eq_none.mpr hno)]
  · have hmatch : ¬ h &&& fixedMask m = headerMatch m := by rwa [headerMatch, ho]
    rw [step_issue, decode_packet rest ho.symm hn, if_neg hmatch]
  · have hmatch : h &&& fixedMask m = headerMatch m := by rwa [headerMatch, ho]
    refine ⟨build h (ops.getD 0 0) (ops.getD 1 0) m, mnemonic_build .., ?_⟩
    rw [step_issue, decode_packet rest ho.symm hn, if_pos hmatch]
  · cases m <;> decide

/-- Settles O2: each line's words are the encoding of its command, which the decoder reads back. -/
theorem specExampleWordsDecode : Obligations.SpecExampleWordsDecode := by
  unfold Obligations.SpecExampleWordsDecode
  simp only [decodeReadsExactlyTheEncoding _ _ _]
  decide

end Sys2Proof
end

section
/-!
Identifier operand words (30_encoding.md R73 to R75): an Id word is its value below the T bit, and a raw word is a value that
fits.
-/

namespace Sys2Proof.Machine

open Sys2Proof.Safety

/-- The bits from `n` up are 0 exactly for a value of `n` bits. -/
theorem extractLsb'_high_eq_zero_iff {n k W : Nat} (w : BitVec W) (hW : n + k = W) :
    w.extractLsb' n k = 0 ↔ w.toNat < 2 ^ n := by
  subst hW
  rw [← BitVec.toNat_inj, BitVec.extractLsb'_toNat, Nat.shiftRight_eq_div_pow]
  have hlt : w.toNat / 2 ^ n < 2 ^ k := Nat.div_lt_of_lt_mul (Nat.pow_add 2 n k ▸ w.isLt)
  simp [Nat.mod_eq_of_lt hlt, Nat.div_eq_zero_iff]

theorem extractLsb'_zero_eq_ofNat (n : Nat) (w : Word) : w.extractLsb' 0 n = BitVec.ofNat n w.toNat := by
  simp [BitVec.extractLsb']

theorem decodeStdW_of_lt {w : Word} (h : w.toNat < 2 ^ 11) : decodeStdW w = .ok (w.extractLsb' 0 11) :=
  if_pos ((extractLsb'_high_eq_zero_iff w rfl).mpr h)

theorem decodeStdW_of_ge {w : Word} (h : 2 ^ 11 ≤ w.toNat) : decodeStdW w = .error .invalidIdentifier :=
  if_neg fun hz => absurd ((extractLsb'_high_eq_zero_iff w rfl).mp hz) (Nat.not_lt.mpr h)

theorem decodeExtW_of_lt {w : Word} (h : w.toNat < 2 ^ 29) : decodeExtW w = .ok (w.extractLsb' 0 29) :=
  if_pos ((extractLsb'_high_eq_zero_iff w rfl).mpr h)

theorem decodeExtW_of_ge {w : Word} (h : 2 ^ 29 ≤ w.toNat) : decodeExtW w = .error .invalidIdentifier :=
  if_neg fun hz => absurd ((extractLsb'_high_eq_zero_iff w rfl).mp hz) (Nat.not_lt.mpr h)

/-- Settles O11: the bits above the identifier's width are 0 exactly below the bound. -/
theorem rawIdentifierWordsAreWidthChecked : Obligations.RawIdentifierWordsAreWidthChecked := by
  intro w
  refine ⟨fun h => ?_, decodeStdW_of_ge, fun h => ?_, decodeExtW_of_ge⟩
  · rw [decodeStdW_of_lt h, extractLsb'_zero_eq_ofNat]
  · rw [decodeExtW_of_lt h, extractLsb'_zero_eq_ofNat]

/-! ### The logical-Id word -/

theorem decodeIdW_standard {w : Word} (ht : w.getLsbD 31 = false) (hz : w.extractLsb' 11 20 = 0) :
    decodeIdW w = .ok (.standard (w.extractLsb' 0 11)) := (if_pos ht).trans (if_pos hz)

theorem decodeIdW_bad_standard {w : Word} (ht : w.getLsbD 31 = false) (hz : w.extractLsb' 11 20 ≠ 0) :
    decodeIdW w = .error .invalidIdentifier := (if_pos ht).trans (if_neg hz)

theorem decodeIdW_extended {w : Word} (ht : w.getLsbD 31 = true) (hz : w.extractLsb' 29 2 = 0) :
    decodeIdW w = .ok (.extended (w.extractLsb' 0 29)) := (if_neg (ne_false_of_eq_true ht)).trans (if_pos hz)

theorem decodeIdW_bad_extended {w : Word} (ht : w.getLsbD 31 = true) (hz : w.extractLsb' 29 2 ≠ 0) :
    decodeIdW w = .error .invalidIdentifier := (if_neg (ne_false_of_eq_true ht)).trans (if_neg hz)

/-- A word that decodes is a standard or an extended one, its reserved bits 0. -/
theorem decodeIdW_eq_ok {w : Word} {id : Id} (h : decodeIdW w = .ok id) :
    (w.getLsbD 31 = false ∧ w.extractLsb' 11 20 = 0 ∧ id = .standard (w.extractLsb' 0 11)) ∨
    (w.getLsbD 31 = true ∧ w.extractLsb' 29 2 = 0 ∧ id = .extended (w.extractLsb' 0 29)) := by
  unfold decodeIdW at h
  split at h
  case isTrue ht =>
    split at h
    case isTrue hz => exact .inl ⟨ht, hz, (Except.ok.inj h).symm⟩
    case isFalse => cases h
  case isFalse ht =>
    split at h
    case isTrue hz => exact .inr ⟨eq_true_of_ne_false ht, hz, (Except.ok.inj h).symm⟩
    case isFalse => cases h

/-- A bit of a field that is 0. -/
theorem getElem_of_extractLsb'_eq_zero {w : Word} {lo n i : Nat} (h : w.extractLsb' lo n = 0) (hlo : lo ≤ i)
    (hn : i < lo + n) (hi : i < 32) : w[i] = false := by
  simpa [show i - lo < n by omega, show lo + (i - lo) = i by omega, hi] using
    congrArg (fun v : BitVec n => v.getLsbD (i - lo)) h

@[simp] theorem getElem_encodeIdW_standard (v : BitVec 11) {i : Nat} (hi : i < 32) :
    (encodeIdW (.standard v))[i] = v.getLsbD i := by
  simp [encodeIdW]

@[simp] theorem getElem_encodeIdW_extended (v : BitVec 29) {i : Nat} (hi : i < 32) :
    (encodeIdW (.extended v))[i] = (decide (i = 31) || v.getLsbD i) := by
  have htag : (0x80000000 : Word) = BitVec.twoPow 32 31 := rfl
  simp [encodeIdW, htag]

/-- The word of the Id a word decodes to has that word's value bits, T bit and zeros. -/
theorem encodeIdW_of_decodeIdW {w : Word} {id : Id} (h : decodeIdW w = .ok id) : encodeIdW id = w := by
  refine BitVec.eq_of_getElem_eq fun i hi => ?_
  obtain ⟨ht, hz, rfl⟩ | ⟨ht, hz, rfl⟩ := decodeIdW_eq_ok h
  · obtain hlow | ⟨hlo, hn⟩ | rfl : i < 11 ∨ (11 ≤ i ∧ i < 11 + 20) ∨ i = 31 := by omega
    · simp [hlow, hi]
    · simp [getElem_of_extractLsb'_eq_zero hz hlo hn hi, Nat.not_lt.mpr hlo]
    · simpa using ht.symm
  · obtain hlow | ⟨hlo, hn⟩ | rfl : i < 29 ∨ (29 ≤ i ∧ i < 29 + 2) ∨ i = 31 := by omega
    · simp [hlow, hi, show i ≠ 31 by omega]
    · simp [getElem_of_extractLsb'_eq_zero hz hlo hn hi, Nat.not_lt.mpr hlo, show i ≠ 31 by omega]
    · simpa using ht

theorem decodeIdW_encodeIdW (id : Id) : decodeIdW (encodeIdW id) = .ok id := by
  cases id with
  | standard v =>
    have htag : (encodeIdW (.standard v)).getLsbD 31 = false := by simp
    have hzero : (encodeIdW (.standard v)).extractLsb' 11 20 = 0 :=
      BitVec.eq_of_getLsbD_eq fun i hi => by simp [hi, show 11 + i < 32 by omega]
    have hvalue : (encodeIdW (.standard v)).extractLsb' 0 11 = v :=
      BitVec.eq_of_getLsbD_eq fun i hi => by simp [hi, show i < 32 by omega]
    rw [decodeIdW_standard htag hzero, hvalue]
  | extended v =>
    have htag : (encodeIdW (.extended v)).getLsbD 31 = true := by simp
    have hzero : (encodeIdW (.extended v)).extractLsb' 29 2 = 0 :=
      BitVec.eq_of_getLsbD_eq fun i hi => by simp [hi, show 29 + i < 32 by omega, show 29 + i ≠ 31 by omega]
    have hvalue : (encodeIdW (.extended v)).extractLsb' 0 29 = v :=
      BitVec.eq_of_getLsbD_eq fun i hi => by simp [hi, show i < 32 by omega, show i ≠ 31 by omega]
    rw [decodeIdW_extended htag hzero, hvalue]

/-- Settles O10: the decoder's four branches, the encoder's two, and the round trips. -/
theorem idWordCodec : Obligations.IdWordCodec :=
  ⟨fun _ => decodeIdW_standard, fun _ => decodeIdW_bad_standard, fun _ => decodeIdW_extended,
    fun _ => decodeIdW_bad_extended, fun _ => rfl, fun _ => rfl, fun _ _ => encodeIdW_of_decodeIdW, decodeIdW_encodeIdW⟩

end Sys2Proof.Machine
end

section
/-!
Byte lists and payload words (30_encoding.md R76, R83, R84): which lanes of the operand words a command stores, and what the
pseudo-instructions build.
-/

namespace Sys2Proof.Machine

open Sys2Proof.Safety

/-! ### Lanes past the payload -/

theorem lanes_lane_eq_wordLane (w1 w2 : Word) (i : Fin 8) : (lanes w1 w2)[i] = wordLane w1 w2 i := by
  rw [lanes_lane]
  unfold wordLane laneOf
  split <;> rfl

/-- The first four lanes are those of the first word. -/
theorem wordLane_of_lt {i : Nat} (hi : i < 4) (w1 w2 v2 : Word) : wordLane w1 w2 i = wordLane w1 v2 i := by
  simp only [wordLane, if_pos hi]

/-- The Data built from two operand words depends on the lanes below its length alone. -/
theorem mkData_lanes_congr {n : Fin 9} {w1 w2 v1 v2 : Word}
    (h : ∀ i < n.val, wordLane w1 w2 i = wordLane v1 v2 i) : mkData n (lanes w1 w2) = mkData n (lanes v1 v2) := by
  refine congrArg (Data.mk n) (congrArg Vector.ofFn (funext fun i => ?_))
  split
  case isTrue hi => rw [lanes_lane_eq_wordLane, lanes_lane_eq_wordLane, h i hi]
  case isFalse => rfl

theorem dataFrom_congr {k : Fin 9} {w1 w2 v1 v2 : Word} (h : ∀ i < k.val, wordLane w1 w2 i = wordLane v1 v2 i)
    (a : RegIdx) (s : State) : dataFrom k a w1 w2 s = dataFrom k a v1 v2 s := by
  simp only [dataFrom, mkData_lanes_congr h]

/-- A conversion of at most four bytes takes its lanes from the first word. -/
theorem dataFrom_low_congr {k : Fin 9} {w1 w2 v1 v2 : Word} (hk : k.val ≤ 4)
    (h : ∀ i < k.val, wordLane w1 w2 i = wordLane v1 v2 i) (a : RegIdx) (s : State) :
    dataFrom k a w1 0 s = dataFrom k a v1 0 s :=
  dataFrom_congr (fun i hi => by
    rw [wordLane_of_lt (hi.trans_le hk) w1 0 w2, wordLane_of_lt (hi.trans_le hk) v1 0 v2, h i hi]) a s

theorem boundedLength_eq_some {len : BitVec 8} {n : Fin 9} (h : boundedLength len = some n) : n.val = len.toNat := by
  unfold boundedLength at h
  split at h
  · cases h; rfl
  · cases h

theorem execDataNew_congr {len : BitVec 8} {w1 w2 v1 v2 : Word}
    (h : ∀ i < len.toNat, i < 8 → wordLane w1 w2 i = wordLane v1 v2 i) (a : RegIdx) (s : State) :
    execDataNew a len w1 w2 s = execDataNew a len v1 v2 s := by
  unfold execDataNew
  cases hn : boundedLength len with
  | none => rfl
  | some n =>
    have hlen : n.val = len.toNat := boundedLength_eq_some hn
    have hd : mkData n (lanes w1 w2) = mkData n (lanes v1 v2) :=
      mkData_lanes_congr fun i hi => h i (hlen ▸ hi) (by omega)
    simp only [hd]

/-- Settles O13: the builder drops the lanes at and past the length, whichever words they came in. -/
theorem lanesPastThePayloadAreIgnored : Obligations.LanesPastThePayloadAreIgnored := by
  intro a s w1 w2 v1 v2
  refine ⟨fun len h => execDataNew_congr h a s, fun h => ?_, fun h => ?_, fun h => ?_, fun h => ?_,
    fun h => dataFrom_congr h a s, fun h => dataFrom_congr h a s, fun h => dataFrom_congr h a s,
    fun h => dataFrom_congr h a s⟩
  · exact dataFrom_low_congr (k := 1) (by decide) (fun i hi => Nat.lt_one_iff.mp hi ▸ h) a s
  · exact dataFrom_low_congr (k := 2) (by decide) h a s
  · exact dataFrom_low_congr (k := 3) (by decide) h a s
  · exact dataFrom_low_congr (k := 4) (by decide) h a s

/-! ### Byte lists -/

/-- The payload words of a byte list hold it from lane 0 on. -/
theorem lanes_bytes (bs : List Byte) (i : Fin 8) : (lanes (bytesLow bs) (bytesHigh bs))[i] = bs.getD i 0 := by
  rw [lanes_lane]
  induction i using Fin.addCases (m := 4) (n := 4) with
  | left k =>
    rw [Fin.val_castAdd, if_pos k.isLt]
    exact laneOf_packWord (fun k => bs.getD k 0) k
  | right k =>
    rw [Fin.val_natAdd, if_neg (by omega), laneOf_add_four]
    exact laneOf_packWord (fun k => bs.getD (4 + k) 0) k

/-- The Data of a byte list shows the list. -/
theorem mkData_bytes_take {bs : List Byte} {n : Fin 9} (hn : n.val = bs.length) :
    (mkData n (lanes (bytesLow bs) (bytesHigh bs))).buf.toList.take bs.length = bs := by
  refine List.ext_getElem (by simp; omega) fun i hi hbs => ?_
  have hlane := mkData_lane n (lanes (bytesLow bs) (bytesHigh bs)) ⟨i, by omega⟩
  rw [lanes_bytes, if_pos (by simpa [hn] using hbs)] at hlane
  simpa [hbs] using hlane

/-- A conversion to an existing register writes its Data and completes. -/
theorem dataFrom_of_inFile {a : RegIdx} {s : State} (ha : inFile s.dr a) (k : Fin 9) (w1 w2 : Word) :
    dataFrom k a w1 w2 s = .next (ok { s with dr := s.dr.set a.toNat (some (mkData k (lanes w1 w2))) }) := by
  obtain ⟨hle, -⟩ | ⟨-, hd⟩ := dataFrom_cases k a w1 w2 s
  · exact absurd ha (Nat.not_lt.mpr hle)
  · rw [hd, State.complete_eq_ok]
    rfl

/-- The command of a byte list is the conversion from as many bytes, whose words are the list's. -/
theorem dataFromBytes_eq {bs : List Byte} (hbs : bs.length ≤ 8) (a : RegIdx) :
    ∃ i, dataFromBytes a bs = some i ∧
      ∀ s, exec i s = dataFrom ⟨bs.length, by omega⟩ a (bytesLow bs) (bytesHigh bs) s := by
  have hlow (k : Fin 9) (hk : k.val ≤ 4) (s : State) :
      dataFrom k a (bytesLow bs) 0 s = dataFrom k a (bytesLow bs) (bytesHigh bs) s :=
    dataFrom_congr (fun i hi => wordLane_of_lt (hi.trans_le hk) ..) a s
  match bs, hbs with
  | [], _ => exact ⟨_, rfl, hlow 0 (by decide)⟩
  | [_], _ => exact ⟨_, rfl, hlow 1 (by decide)⟩
  | [_, _], _ => exact ⟨_, rfl, hlow 2 (by decide)⟩
  | [_, _, _], _ => exact ⟨_, rfl, hlow 3 (by decide)⟩
  | [_, _, _, _], _ => exact ⟨_, rfl, hlow 4 (by decide)⟩
  | [_, _, _, _, _], _ | [_, _, _, _, _, _], _ | [_, _, _, _, _, _, _], _ | [_, _, _, _, _, _, _, _], _ =>
    exact ⟨_, rfl, fun _ => rfl⟩

/-! ### The whole mask -/

theorem codeOf_statusWord (code : BitVec 4) (fault : Bool) : codeOf (statusWord code fault) = code.zeroExtend 32 := by
  refine BitVec.eq_of_getLsbD_eq fun i hi => ?_
  interval_cases i <;> simp [codeOf, statusWord]

theorem codeOf_statusAfterOk (st : Word) : codeOf (statusAfterOk st) = 0 := codeOf_statusWord 0 _

theorem codeOf_statusAfterError (e : ErrorCode) (st : Word) :
    codeOf (statusAfterError e st) = e.number.zeroExtend 32 := codeOf_statusWord e.number _

/-- `ARB.SEL` of a mask that selects a missing register ends with IndexRange (43_priority.md R222). -/
theorem exec_arbSel_of_missing {mask : BitVec 8} {s : State} {i : Nat} (hi : i ∈ maskIndices mask)
    (hlen : s.pr.length ≤ i) : exec (.arbSel mask) s = .next (faulted s 9) := by
  cases hc : checkIndices s.pr (maskIndices mask) with
  | ok u => exact absurd (checkIndices_eq_ok.mp hc i hi) (Nat.not_lt.mpr hlen)
  | error e => simp [exec, execArbSel, hc, checkIndices_error hc, State.raise_indexRange]

/-- `ARB.SEL` of a mask that selects existing registers completes or ends with Unwritten (43_priority.md R222). -/
theorem exec_arbSel_of_existing {mask : BitVec 8} {s : State} (h : ∀ i ∈ maskIndices mask, i < s.pr.length) :
    ∃ t, exec (.arbSel mask) s = .next t ∧ (codeOf t.status = 0 ∨ codeOf t.status = 10) := by
  have hc : checkIndices s.pr (maskIndices mask) = .ok () := checkIndices_eq_ok.mpr h
  cases hr : readRegs s.pr (maskIndices mask) with
  | ok cs =>
    exact ⟨(s.setRes0 (arbiterWord (arbitrate cs))).complete, by simp [exec, execArbSel, hc, hr],
      .inl (codeOf_statusAfterOk _)⟩
  | error e =>
    obtain rfl := readRegs_error hr
    exact ⟨s.raise .unwritten, by simp [exec, execArbSel, hc, hr], .inr (codeOf_statusAfterError ..)⟩

/-- Settles O3: the lines' commands, the payload `DATA.LIT` builds, and the registers 0 to 7 that `ARB.ALL` selects. -/
theorem pseudoInstructionsExpandToOneCommand : Obligations.PseudoInstructionsExpandToOneCommand := by
  refine ⟨fun _ _ => ⟨rfl, rfl⟩, fun a bs hbs => ?_, rfl, fun s => ⟨fun hlen => ?_, fun hlen => ?_⟩⟩
  · obtain ⟨i, hi, hexec⟩ := dataFromBytes_eq hbs a
    exact ⟨i, hi, (if_pos rfl).trans hi, fun s ha =>
      ⟨_, (hexec s).trans (dataFrom_of_inFile ha ..), rfl, mkData_bytes_take (n := ⟨bs.length, by omega⟩) rfl⟩⟩
  · exact exec_arbSel_of_missing (i := 7) (by decide) (by omega)
  · obtain ⟨t, ht, hcode⟩ := exec_arbSel_of_existing (mask := 0xFF) (s := s) fun i hi =>
      hlen ▸ (mem_maskIndices.mp hi).1
    exact ⟨t, ht, by rcases hcode with h | h <;> simp [h]⟩

end Sys2Proof.Machine
end

section
/-!
The IdReg datapath (40_idreg.md R100 to R109): the packers and the replacer by their fields, the unpacker, and the order of
packed registers as the order of numbers.
-/

namespace Sys2Proof.Machine

open Sys2Proof.Safety

/-! ### The packers by their fields -/

/-- A packed standard register is the identifier above zeros and the flag bits 100 (40_idreg.md R100). -/
theorem packStd_eq_append (v : BitVec 11) : packStd v = v ++ (4 : BitVec 21) := by
  rw [packStd_eq]
  refine BitVec.eq_of_getLsbD_eq fun i hi => ?_
  rw [BitVec.getLsbD_append]
  interval_cases i <;> simp

/-- A packed extended register is the identifier above the flag bits 000 (40_idreg.md R101). -/
theorem packExt_eq_append (v : BitVec 29) : packExt v = v ++ (0 : BitVec 3) := by
  refine BitVec.eq_of_getLsbD_eq fun i hi => ?_
  rw [BitVec.getLsbD_append]
  by_cases hlt : i < 3 <;> simp [packExt, hi, hlt]

theorem extractLsb'_packStd (v : BitVec 11) : (packStd v).extractLsb' 21 11 = v := by
  rw [packStd_eq_append]
  exact BitVec.extractLsb'_append_eq_left

theorem extractLsb'_packExt (v : BitVec 29) : (packExt v).extractLsb' 3 29 = v := by
  rw [packExt_eq_append]
  exact BitVec.extractLsb'_append_eq_left

/-- The bits of a packed standard register below the identifier are those of the constant 100. -/
theorem extractLsb'_packStd_low (v : BitVec 11) {lo n : Nat} (h : lo + n ≤ 21) :
    (packStd v).extractLsb' lo n = (4 : BitVec 21).extractLsb' lo n := by
  rw [packStd_eq_append]
  exact BitVec.extractLsb'_append_eq_of_add_le h

theorem extractLsb'_packExt_low (v : BitVec 29) : (packExt v).extractLsb' 0 3 = 0 := by
  rw [packExt_eq_append]
  exact BitVec.extractLsb'_append_eq_right

theorem getLsbD_packStd (v : BitVec 11) (i : Nat) :
    (packStd v).getLsbD i = if i < 21 then decide (i = 2) else v.getLsbD (i - 21) := by
  rw [packStd_eq_append, BitVec.getLsbD_append]
  split
  · interval_cases i <;> rfl
  · rfl

theorem getLsbD_packExt (v : BitVec 29) (i : Nat) :
    (packExt v).getLsbD i = if i < 3 then false else v.getLsbD (i - 3) := by
  rw [packExt_eq_append, BitVec.getLsbD_append, BitVec.ofNat_eq_ofNat, BitVec.getLsbD_zero]

/-- Settles O14: the identifier is the upper field of the register and the flag bits are the lower. -/
theorem packersPlaceTheIdentifier : Obligations.PackersPlaceTheIdentifier :=
  ⟨fun v => ⟨packStd_eq v, extractLsb'_packStd v, extractLsb'_packStd_low v (by decide),
      extractLsb'_packStd_low v (by decide), rfl⟩,
    fun v => ⟨rfl, extractLsb'_packExt v, extractLsb'_packExt_low v, rfl⟩⟩

/-! ### The replacer and the unpacker -/

/-- The replacer puts F at bit 1 and keeps every other bit (40_idreg.md R102). -/
theorem getLsbD_setRtr (r : IdReg) (f : BitVec 1) (i : Nat) :
    (setRtr r f).getLsbD i = if i = 1 then f.getLsbD 0 else r.getLsbD i := by
  obtain ⟨-, -, -, -, hbits⟩ := flagBitsAreReadAndReplaced r f
  exact hbits i

/-- A field above the RTR bit is kept by the replacer. -/
theorem extractLsb'_setRtr (r : IdReg) (f : BitVec 1) {lo n : Nat} (hlo : 2 ≤ lo) :
    (setRtr r f).extractLsb' lo n = r.extractLsb' lo n :=
  BitVec.eq_of_getLsbD_eq fun i _ => by
    simp only [BitVec.getLsbD_extractLsb', getLsbD_setRtr_of_ne r f (show lo + i ≠ 1 by omega)]

theorem isStandard_setRtr (r : IdReg) (f : BitVec 1) : isStandard (setRtr r f) = isStandard r :=
  getLsbD_setRtr_of_ne r f (by decide)

theorem toId_setRtr (r : IdReg) (f : BitVec 1) : toId (setRtr r f) = toId r := by
  have hstd : (setRtr r f).extractLsb' 21 11 = r.extractLsb' 21 11 := extractLsb'_setRtr r f (by decide)
  have hext : (setRtr r f).extractLsb' 3 29 = r.extractLsb' 3 29 := extractLsb'_setRtr r f (by decide)
  simp only [toId, isStandard_setRtr, hstd, hext]

/-- The RTR field is the register's bit 1. -/
theorem rtr_eq_ofBool (r : IdReg) : rtr r = BitVec.ofBool (r.getLsbD 1) :=
  BitVec.eq_of_getLsbD_eq fun i hi => by
    obtain rfl : i = 0 := by omega
    simp [rtr]

theorem rtr_setRtr (r : IdReg) (f : BitVec 1) : rtr (setRtr r f) = f := by
  rw [rtr_eq_ofBool, getLsbD_setRtr, if_pos rfl]
  revert f; decide

theorem toId_standard {r : IdReg} (h : r.getLsbD 2 = true) : toId r = .standard (r.extractLsb' 21 11) := if_pos h

theorem toId_extended {r : IdReg} (h : r.getLsbD 2 = false) : toId r = .extended (r.extractLsb' 3 29) :=
  if_neg (ne_true_of_eq_false h)

/-- Unpacking gives back the packed Id (40_idreg.md R108). -/
theorem toId_idRegOf (id : Id) : toId (idRegOf id) = id := by
  cases id with
  | standard v => rw [idRegOf, toId_standard (by simp [packStd]), extractLsb'_packStd]
  | extended v => rw [idRegOf, toId_extended (by simp [packExt]), extractLsb'_packExt]

theorem rtr_idRegOf (id : Id) : rtr (idRegOf id) = 0 := by
  rw [rtr_eq_ofBool, rtr_bit_idRegOf]
  rfl

/-- Settles O19: an Id survives packing, and the replacer works on bit 1 alone. -/
theorem packingRoundTrips : Obligations.PackingRoundTrips :=
  ⟨fun v => ⟨toId_idRegOf (.standard v), rtr_idRegOf (.standard v)⟩,
    fun v => ⟨toId_idRegOf (.extended v), rtr_idRegOf (.extended v)⟩,
    fun r f => ⟨toId_setRtr r f, isStandard_setRtr r f, rtr_setRtr r f⟩⟩

/-- Packing the Id of a canonical register gives the register but for its RTR bit (40_idreg.md R104). -/
theorem getLsbD_idRegOf_toId {r : IdReg} (h : canonical r = true) {i : Nat} (hi : i < 32) (hne : i ≠ 1) :
    (idRegOf (toId r)).getLsbD i = r.getLsbD i := by
  obtain ⟨h0, hzero⟩ := canonical_iff.mp h
  cases h2 : r.getLsbD 2 with
  | true =>
    rw [toId_standard h2, idRegOf, getLsbD_packStd]
    obtain rfl | rfl | hmid | hhigh : i = 0 ∨ i = 2 ∨ (3 ≤ i ∧ i < 21) ∨ 21 ≤ i := by omega
    · simpa using h0.symm
    · simpa using h2.symm
    · obtain ⟨hlo, hlt⟩ := hmid
      have hbit := hzero h2 (i - 3) (by omega)
      rw [Nat.add_sub_cancel' hlo] at hbit
      simp [hlt, hbit, show i ≠ 2 by omega]
    · simp [show ¬ i < 21 by omega, show i - 21 < 11 by omega, show 21 + (i - 21) = i by omega]
  | false =>
    rw [toId_extended h2, idRegOf, getLsbD_packExt]
    obtain rfl | rfl | hhigh : i = 0 ∨ i = 2 ∨ 3 ≤ i := by omega
    · simpa using h0.symm
    · simpa using h2.symm
    · simp [show ¬ i < 3 by omega, show i - 3 < 29 by omega, show 3 + (i - 3) = i by omega]

/-- A canonical register is its Id and its RTR flag (40_idreg.md R104). -/
theorem setRtr_idRegOf_toId {r : IdReg} (h : canonical r = true) : setRtr (idRegOf (toId r)) (rtr r) = r := by
  refine BitVec.eq_of_getLsbD_eq fun i hi => ?_
  rw [getLsbD_setRtr]
  split
  case isTrue h1 => simp [h1, rtr]
  case isFalse h1 => exact getLsbD_idRegOf_toId h hi h1

/-- Settles O16: the two arms of the unpacker, and the pair it is one half of. -/
theorem unpackerIsSelectedByIde : Obligations.UnpackerIsSelectedByIde :=
  fun _ => ⟨toId_standard, toId_extended, setRtr_idRegOf_toId⟩

/-! ### The comparison unit -/

theorem toNat_append_eq_add {m n : Nat} (x : BitVec m) (y : BitVec n) : (x ++ y).toNat = x.toNat * 2 ^ n + y.toNat := by
  rw [BitVec.toNat_append, ← Nat.shiftLeft_add_eq_or_of_lt y.isLt, Nat.shiftLeft_eq]

theorem toNat_packStd (v : BitVec 11) : (packStd v).toNat = v.toNat * 2 ^ 21 + 4 := by
  rw [packStd_eq_append]
  exact toNat_append_eq_add v 4

theorem toNat_packExt (v : BitVec 29) : (packExt v).toNat = v.toNat * 2 ^ 3 := by
  rw [packExt_eq_append]
  exact toNat_append_eq_add v 0

/-- The replacer writes the digit of weight 2. -/
theorem toNat_setRtr (r : IdReg) (f : BitVec 1) :
    (setRtr r f).toNat = r.toNat / 4 * 4 + f.toNat * 2 + r.toNat % 2 := by
  have happend : setRtr r f = r.extractLsb' 2 30 ++ f ++ r.extractLsb' 0 1 := by
    refine BitVec.eq_of_getLsbD_eq fun i hi => ?_
    rw [getLsbD_setRtr, BitVec.getLsbD_append, BitVec.getLsbD_append]
    obtain rfl | rfl | hlt : i = 0 ∨ i = 1 ∨ 1 < i := by omega
    · simp
    · simp
    · simp [show i ≠ 0 by omega, show i ≠ 1 by omega, show i - 1 ≠ 0 by omega, show i - 1 - 1 < 30 by omega,
        show 2 + (i - 1 - 1) = i by omega]
  have hr := r.isLt
  simp only [happend, toNat_append_eq_add, BitVec.extractLsb'_toNat, Nat.shiftRight_eq_div_pow]
  omega

theorem toNat_setRtr_packStd (v : BitVec 11) (f : BitVec 1) :
    (setRtr (packStd v) f).toNat = v.toNat * 2 ^ 21 + 4 + f.toNat * 2 := by
  rw [toNat_setRtr, toNat_packStd]
  omega

theorem toNat_setRtr_packExt (v : BitVec 29) (f : BitVec 1) :
    (setRtr (packExt v) f).toNat = v.toNat * 2 ^ 3 + f.toNat * 2 := by
  rw [toNat_setRtr, toNat_packExt]
  omega

/-- The comparison unit compares the registers as numbers (40_idreg.md R105). -/
theorem cmpIdReg_eq_compare (r q : IdReg) : cmpIdReg r q = compare r.toNat q.toNat := by
  simp only [cmpIdReg, BitVec.lt_def, ← BitVec.toNat_inj]
  rfl

theorem cmpIdReg_eq_lt {r q : IdReg} : cmpIdReg r q = .lt ↔ r.toNat < q.toNat := by
  rw [cmpIdReg_eq_compare, Nat.compare_eq_lt]

theorem cmpIdReg_eq_gt {r q : IdReg} : cmpIdReg r q = .gt ↔ q.toNat < r.toNat := by
  rw [cmpIdReg_eq_compare, Nat.compare_eq_gt]

theorem cmpIdReg_eq_eq {r q : IdReg} : cmpIdReg r q = .eq ↔ r = q := by
  rw [cmpIdReg_eq_compare, Nat.compare_eq_eq, BitVec.toNat_inj]

theorem cmpIdReg_ne_gt {r q : IdReg} : cmpIdReg r q ≠ .gt ↔ r.toNat ≤ q.toNat := by
  rw [cmpIdReg_eq_compare, Nat.compare_ne_gt]

/-- Two canonical registers are equal exactly when their Ids and RTR flags are (40_idreg.md R106 (e)). -/
theorem eq_iff_toId_rtr {r q : IdReg} (hr : canonical r = true) (hq : canonical q = true) :
    r = q ↔ toId r = toId q ∧ rtr r = rtr q := by
  refine ⟨fun h => ⟨congrArg toId h, congrArg rtr h⟩, fun ⟨hid, hrtr⟩ => ?_⟩
  calc r = setRtr (idRegOf (toId r)) (rtr r) := (setRtr_idRegOf_toId hr).symm
    _ = setRtr (idRegOf (toId q)) (rtr q) := by rw [hid, hrtr]
    _ = q := setRtr_idRegOf_toId hq

/-- Settles O17: the identifier weighs more than the flag bits, so the numbers are ordered by it first. -/
theorem comparisonOrdersIdentifiersThenRtr : Obligations.ComparisonOrdersIdentifiersThenRtr := by
  unfold Obligations.ComparisonOrdersIdentifiersThenRtr
  simp only [cmpIdReg_eq_lt, cmpIdReg_ne_gt, BitVec.lt_def, toNat_packStd, toNat_packExt, toNat_setRtr_packStd,
    toNat_setRtr_packExt]
  refine ⟨fun a b h => ?_, fun a b h => ?_, fun r _ => ?_, fun a b f g h => ?_, fun a b f g h => ?_,
    fun r q hr hq => cmpIdReg_eq_eq.trans (eq_iff_toId_rtr hr hq), fun r q => ⟨cmpIdReg_eq_eq, cmpIdReg_eq_gt.symm⟩,
    fun _ _ _ => Nat.le_trans⟩
  · omega
  · omega
  · rw [toNat_setRtr, toNat_setRtr]
    simp
  · omega
  · omega

/-- Settles O18: an extended register is `e * 8` and a standard one `s * 2 ^ 21 + 4`, each plus its RTR digit, so that
`e = s * 2 ^ 18` falls on the side of Less. -/
theorem mixedFormatsCompareByLeftAlignedValue : Obligations.MixedFormatsCompareByLeftAlignedValue := by
  intro s e f g
  simp only [cmpIdReg_eq_lt, cmpIdReg_eq_gt, toNat_setRtr_packStd, toNat_setRtr_packExt]
  omega

end Sys2Proof.Machine
end

section
/-!
Packets and checks (30_encoding.md R79, R82; 40_idreg.md R119): what the packet of a row does, a rule for each check a command
makes in turn, and the shared shapes put together from these.
-/

namespace Sys2Proof.Machine

open Sys2Proof.Safety

/-! ### The packet of a row -/

/-- A packet of a row executes the row's command, or raises IllegalCommand when a reserved bit is set (30_encoding.md R79,
R82). -/
theorem runsAs_row (m : Mnemonic) :
    runsAs (opcode m) (fixedMask m) (operandCount m) fun h w1 w2 => build h w1 w2 m := by
  intro h ops rest acts s hop hn
  rw [step_issue, decode_packet rest hop hn, headerMatch]
  by_cases hlegal : h &&& fixedMask m = (opcode m).zeroExtend 32 <<< 24
  · rw [if_pos hlegal, if_pos hlegal]
  · rw [if_neg hlegal, if_neg hlegal]

/-! ### A command's checks in turn -/

section
variable {α : Type} {file : List (Option α)} {a b : RegIdx} (s : State)

theorem conclude_checkIndex_of_inFile (h : inFile file a) (k : Unit → Except ErrorCode State) :
    conclude s (checkIndex file a.toNat >>= k) = conclude s (k ()) := by
  rw [checkIndex_of_lt h, except_ok_bind]

theorem conclude_checkIndex_of_missing (h : ¬ inFile file a) (k : Unit → Except ErrorCode State) :
    conclude s (checkIndex file a.toNat >>= k) = .next (faulted s 9) := by
  rw [checkIndex_of_le (Nat.le_of_not_lt h), except_error_bind, conclude_error, State.raise_indexRange]

/-- The checks of two indices of one file fail alike when either register is missing. -/
theorem conclude_checkIndex_of_either_missing (h : ¬ inFile file a ∨ ¬ inFile file b) (k : Unit → Except ErrorCode State) :
    conclude s (checkIndex file a.toNat >>= fun _ => checkIndex file b.toNat >>= k) = .next (faulted s 9) := by
  by_cases ha : inFile file a
  · rw [conclude_checkIndex_of_inFile s ha]
    exact conclude_checkIndex_of_missing s (h.resolve_left (not_not_intro ha)) k
  · exact conclude_checkIndex_of_missing s ha _

theorem conclude_readReg_of_holds {v : α} (h : holds file a v) (k : α → Except ErrorCode State) :
    conclude s (readReg file a.toNat >>= k) = conclude s (k v) := by
  rw [readReg_of_some h, except_ok_bind]

theorem conclude_readReg_of_unwritten (h : isUnwritten file a) (k : α → Except ErrorCode State) :
    conclude s (readReg file a.toNat >>= k) = .next (faulted s 10) := by
  rw [readReg_of_none h, except_error_bind, conclude_error, State.raise_unwritten]

theorem conclude_return (t : State) : conclude s (pure t) = .next (ok t) := by
  rw [except_pure, conclude_ok, State.complete_eq_ok]

end

/-! ### The shared shapes -/

section
variable {α : Type} {file : List (Option α)} {a b : RegIdx} (s : State)

theorem readToRes0_of_holds {v : α} (f : α → Word) (h : holds file a v) :
    readToRes0 file a f s = .next (ok { s with res0 := f v }) :=
  (conclude_checkIndex_of_inFile s (lt_of_getElem?_some h) _).trans
    ((conclude_readReg_of_holds s h _).trans (conclude_return s _))

theorem readToRes0_of_missing (f : α → Word) (h : ¬ inFile file a) : readToRes0 file a f s = .next (faulted s 9) :=
  conclude_checkIndex_of_missing s h _

theorem readToRes0_of_unwritten (f : α → Word) (h : isUnwritten file a) :
    readToRes0 file a f s = .next (faulted s 10) :=
  (conclude_checkIndex_of_inFile s (lt_of_getElem?_some h) _).trans (conclude_readReg_of_unwritten s h _)

theorem readTwoToRes0_of_holds {v w : α} (f : α → α → Word) (ha : holds file a v) (hb : holds file b w) :
    readTwoToRes0 file a b f s = .next (ok { s with res0 := f v w }) := by
  rw [readTwoToRes0, conclude_checkIndex_of_inFile s (lt_of_getElem?_some ha),
    conclude_checkIndex_of_inFile s (lt_of_getElem?_some hb), conclude_readReg_of_holds s ha,
    conclude_readReg_of_holds s hb, conclude_return]
  rfl

theorem readTwoToRes0_of_missing (f : α → α → Word) (h : ¬ inFile file a ∨ ¬ inFile file b) :
    readTwoToRes0 file a b f s = .next (faulted s 9) :=
  conclude_checkIndex_of_either_missing s h _

theorem readTwoToRes0_of_unwritten (f : α → α → Word) (ha : inFile file a) (hb : inFile file b)
    (h : isUnwritten file a ∨ isUnwritten file b) : readTwoToRes0 file a b f s = .next (faulted s 10) := by
  rw [readTwoToRes0, conclude_checkIndex_of_inFile s ha, conclude_checkIndex_of_inFile s hb]
  obtain hua | ⟨v, hv⟩ := reg_cases ha
  · exact conclude_readReg_of_unwritten s hua _
  · rw [conclude_readReg_of_holds s hv]
    exact conclude_readReg_of_unwritten s (h.resolve_left (by simp [hv])) _

end

end Sys2Proof.Machine
end

section
/-!
The IdReg commands (40_idreg.md R110 to R118): each is its checks in turn, its datapath, and a result word or a register write.
-/

namespace Sys2Proof.Machine

open Sys2Proof.Safety

/-! ### Result words -/

theorem boolWord_isExtended (r : IdReg) : boolWord (isExtended r) = if r.getLsbD 2 then 0 else 1 := by
  unfold isExtended
  cases r.getLsbD 2 <;> rfl

theorem zeroExtend_rtr (r : IdReg) : (rtr r).zeroExtend 32 = if r.getLsbD 1 then 1 else 0 := by
  rw [rtr_eq_ofBool]
  cases r.getLsbD 1 <;> rfl

theorem encodeIdW_toId (r : IdReg) :
    encodeIdW (toId r) = if r.getLsbD 2 then (r.extractLsb' 21 11).zeroExtend 32
      else 0x80000000 ||| (r.extractLsb' 3 29).zeroExtend 32 := by
  cases h : r.getLsbD 2 with
  | true =>
    rw [toId_standard h]
    rfl
  | false =>
    rw [toId_extended h]
    rfl

theorem orderWord_compare (m n : Nat) : orderWord (compare m n) = if m < n then 1 else if m = n then 0 else 2 := by
  obtain h | h | h := Nat.lt_trichotomy m n
  · rw [Nat.compare_eq_lt.mpr h, if_pos h, orderWord]
  · rw [Nat.compare_eq_eq.mpr h, if_neg h.not_lt, if_pos h, orderWord]
  · rw [Nat.compare_eq_gt.mpr h, if_neg h.not_gt, if_neg h.ne', orderWord]

/-! ### The commands -/

section
variable {β : Type} {a : RegIdx} {s : State} {x : Except ErrorCode β}

/-- A command that packs its Id operand into `IR[A]`, the operand valid (40_idreg.md R110, R111). -/
theorem packIr_of_ok {v : β} (ha : inFile s.ir a) (hx : x = .ok v) (pack : β → IdReg) :
    (conclude s do checkIndex s.ir a.toNat; let v ← x; return s.writeIr a (pack v)) =
      .next (ok { s with ir := s.ir.set a.toNat (some (pack v)) }) := by
  rw [conclude_checkIndex_of_inFile s ha, hx, except_ok_bind, conclude_return]
  rfl

/-- A command that packs its Id operand into `IR[A]`, the operand invalid (60_exceptions.md R244). -/
theorem packIr_of_invalid (ha : inFile s.ir a) (hx : x = .error .invalidIdentifier) (pack : β → IdReg) :
    (conclude s do checkIndex s.ir a.toNat; let v ← x; return s.writeIr a (pack v)) = .next (rejected s 3) := by
  rw [conclude_checkIndex_of_inFile s ha, hx, except_error_bind, conclude_error, State.raise_invalidIdentifier]

end

/-- Settles O20: the index check, the width check, and the standard packer. -/
theorem idStdPacksAStandardIdentifier : Obligations.IdStdPacksAStandardIdentifier := by
  refine ⟨runsAs_row .idStd, fun a w1 s => ⟨fun ha hw => ?_, fun ha => conclude_checkIndex_of_missing s ha _,
    fun ha hw => packIr_of_invalid ha (if_neg hw) packStd⟩⟩
  rw [← packStd_eq]
  exact packIr_of_ok ha (if_pos hw) packStd

/-- Settles O21: the index check, the width check, and the extended packer. -/
theorem idExtPacksAnExtendedIdentifier : Obligations.IdExtPacksAnExtendedIdentifier :=
  ⟨runsAs_row .idExt, fun _ _ s => ⟨fun ha hw => packIr_of_ok ha (if_pos hw) packExt,
    fun ha => conclude_checkIndex_of_missing s ha _, fun ha hw => packIr_of_invalid ha (if_neg hw) packExt⟩⟩

/-- Settles O22: both index checks, the read of B, and the replacer. -/
theorem idRtrReplacesTheRtrBit : Obligations.IdRtrReplacesTheRtrBit := by
  refine ⟨runsAs_row .idRtr, fun a b f s => ⟨fun r ha hb => ?_,
    fun h => conclude_checkIndex_of_either_missing s h _, fun ha hb => ?_⟩⟩
  · rw [exec, execIdRtr, conclude_checkIndex_of_inFile s ha, conclude_checkIndex_of_inFile s (lt_of_getElem?_some hb),
      conclude_readReg_of_holds s hb, conclude_return]
    rfl
  · rw [exec, execIdRtr, conclude_checkIndex_of_inFile s ha, conclude_checkIndex_of_inFile s (lt_of_getElem?_some hb),
      conclude_readReg_of_unwritten s hb]

/-- Settles O23: three reads of one register, each showing one bit. -/
theorem idFlagReadsGiveTheBits : Obligations.IdFlagReadsGiveTheBits := by
  refine ⟨runsAs_row .idIsExt, runsAs_row .idIsStd, runsAs_row .idGetRtr,
    fun a s => ⟨fun r hr => ?_, fun ha => ?_, fun ha => ?_⟩⟩
  · rw [← boolWord_isExtended, ← zeroExtend_rtr]
    exact ⟨readToRes0_of_holds s _ hr, readToRes0_of_holds s _ hr, readToRes0_of_holds s _ hr⟩
  · exact ⟨readToRes0_of_missing s _ ha, readToRes0_of_missing s _ ha, readToRes0_of_missing s _ ha⟩
  · exact ⟨readToRes0_of_unwritten s _ ha, readToRes0_of_unwritten s _ ha, readToRes0_of_unwritten s _ ha⟩

/-- Settles O24: the read shows the Id word of the unpacked register. -/
theorem idToIdUnpacksTheIdentifier : Obligations.IdToIdUnpacksTheIdentifier := by
  refine ⟨runsAs_row .idToId, fun a s =>
    ⟨fun r hr => ?_, readToRes0_of_missing s _, readToRes0_of_unwritten s _⟩⟩
  rw [← encodeIdW_toId]
  exact readToRes0_of_holds s _ hr

/-- Settles O25: the read of both registers shows the order of their numbers. -/
theorem idCmpOrdersTwoRegisters : Obligations.IdCmpOrdersTwoRegisters := by
  refine ⟨runsAs_row .idCmp, fun a b s =>
    ⟨fun x y hx hy => ?_, readTwoToRes0_of_missing s _, readTwoToRes0_of_unwritten s _⟩⟩
  rw [← orderWord_compare, ← cmpIdReg_eq_compare]
  exact readTwoToRes0_of_holds s _ hx hy

/-- A written IdReg of a state that meets the invariant is canonical (10_state.md R25). -/
theorem canonical_of_holds {s : State} {a : RegIdx} {r : IdReg} (h : invariant s = true) (hr : holds s.ir a r) :
    canonical r = true := by
  obtain ⟨hlegal, -⟩ := invariant_iff.mp h
  exact of_readReg hlegal.ir (readReg_of_some hr)

/-- Settles O26: the read shows the register itself, which the invariant makes canonical. -/
theorem idRawExportsTheRegister : Obligations.IdRawExportsTheRegister := by
  refine ⟨runsAs_row .idRaw, fun a s => ⟨fun r hr => readToRes0_of_holds s _ hr, fun r t hs hr ht => ?_,
    readToRes0_of_missing s _, readToRes0_of_unwritten s _⟩⟩
  obtain rfl := Host.Outcome.next.inj ((readToRes0_of_holds s (fun r => r) hr).symm.trans ht)
  obtain ⟨h0, -⟩ := canonical_iff.mp (canonical_of_holds hs hr)
  exact h0

end Sys2Proof.Machine
end

section
/-!
Payload values (41_data.md R140 to R142): the Data a constructor builds, the words that show a Data, and the equality of bounded
views.
-/

namespace Sys2Proof.Machine

open Sys2Proof.Safety

/-! ### What a constructor builds -/

/-- The builder on the lanes of two operand words, in the raw words of the rule (41_data.md R140). -/
theorem mkData_lanes_eq_payload (n : Fin 9) (w1 w2 : Word) : mkData n (lanes w1 w2) = payload n w1 w2 := by
  simp only [mkData, payload, lanes_lane_eq_wordLane]

/-- A payload holds the lanes of its words below its length. -/
theorem payload_lane {n : Fin 9} {i : Fin 8} (hi : i.val < n.val) (w1 w2 : Word) :
    (payload n w1 w2).buf[i] = wordLane w1 w2 i.val := by
  simp [payload, hi]

theorem emptyData_eq : emptyData = ⟨0, Vector.replicate 8 0⟩ := by decide

theorem boundedLength_of_eq {len : BitVec 8} {n : Fin 9} (h : n.val = len.toNat) : boundedLength len = some n := by
  have hlt : len.toNat < 9 := h ▸ n.isLt
  exact (dif_pos hlt).trans (congrArg some (Fin.ext h.symm))

theorem boundedLength_of_gt {len : BitVec 8} (h : 8 < len.toNat) : boundedLength len = none := dif_neg (by omega)

/-! ### What shows a Data -/

/-- The view words carry the lanes below the length and zero from there on (41_data.md R141). -/
theorem wordLane_viewWords (d : Data) (i : Fin 8) :
    wordLane (viewWordLow d) (viewWordHigh d) i.val = if i.val < d.len.val then d.buf[i] else 0 := by
  have hword : i.val < 4 ↔ i.val / 4 = 0 := (Nat.div_eq_zero_iff_lt (by decide)).symm
  exact (congrArg (laneOf · i.val) (if_congr hword rfl rfl)).trans (laneOf_viewWords d i)

theorem boolWord_decide (p : Prop) [Decidable p] : boolWord (decide p) = if p then 1 else 0 := by
  simp only [boolWord, decide_eq_true_eq]

theorem boolWord_len_beq_zero (d : Data) : boolWord (d.len == 0) = if d.len.val = 0 then 1 else 0 :=
  (boolWord_decide (d.len = 0)).trans (if_congr Fin.ext_iff rfl rfl)

/-- A lane write leaves every other lane as it is (41_data.md R159). -/
theorem setLane_lane (d : Data) (idx : BitVec 3) (byte : Byte) (i : Fin 8) :
    (d.buf.set (laneIndex idx) byte)[i] = if i.val = idx.toNat then byte else d.buf[i] := by
  have hset := Vector.getElem_set (xs := d.buf) (x := byte) (laneIndex idx).isLt i.isLt
  exact hset.trans (if_congr eq_comm rfl rfl)

/-! ### Equality -/

theorem eqData_iff_sameView {d e : Data} : eqData d e = true ↔ sameView d e := decide_eq_true_iff

theorem length_boundedView (d : Data) : (d.buf.toList.take d.len.val).length = d.len.val := by
  rw [List.length_take, Vector.length_toList]
  exact Nat.min_eq_left (Nat.le_of_lt_succ d.len.isLt)

/-- Two Data have the same view exactly when their bounded views are the same list (41_data.md R142). -/
theorem sameView_iff_take_eq {d e : Data} :
    sameView d e ↔ d.buf.toList.take d.len.val = e.buf.toList.take e.len.val := by
  constructor
  · rintro ⟨hlen, hbuf⟩
    refine List.ext_getElem (by rw [length_boundedView, length_boundedView, hlen]) fun i hi _ => ?_
    rw [length_boundedView] at hi
    simpa using hbuf ⟨i, by omega⟩ hi
  · intro h
    have hlen : d.len.val = e.len.val := by simpa only [length_boundedView] using congrArg List.length h
    refine ⟨Fin.ext hlen, fun i hi => ?_⟩
    have hi' : i.val < e.len.val := hlen ▸ hi
    simpa [hi, hi'] using congrArg (·[i.val]?) h

end Sys2Proof.Machine
end

section
/-!
The Data commands (41_data.md R143 to R160): each is its checks in turn, then a Data written to `DR[A]` or its lanes shown.
-/

namespace Sys2Proof.Machine

open Sys2Proof.Safety

/-! ### The checks of an access -/

section
variable {α : Type} {file : List (Option α)} {a : RegIdx} {d : Data} {idx : BitVec 3} (s : State)

theorem conclude_checkedRead_of_holds {v : α} (h : holds file a v) (k : α → Except ErrorCode State) :
    conclude s (checkIndex file a.toNat >>= fun _ => readReg file a.toNat >>= k) = conclude s (k v) := by
  rw [conclude_checkIndex_of_inFile s (lt_of_getElem?_some h), conclude_readReg_of_holds s h]

theorem conclude_checkedRead_of_unwritten (h : isUnwritten file a) (k : α → Except ErrorCode State) :
    conclude s (checkIndex file a.toNat >>= fun _ => readReg file a.toNat >>= k) = .next (faulted s 10) := by
  rw [conclude_checkIndex_of_inFile s (lt_of_getElem?_some h), conclude_readReg_of_unwritten s h]

/-- A lane index at or past the length ends the command with ViewBounds (60_exceptions.md R248). -/
theorem conclude_checkView_of_le (h : d.len.val ≤ idx.toNat) (k : Unit → Except ErrorCode State) :
    conclude s (checkView d idx >>= k) = .next (faulted s 11) := by
  rw [checkView_of_le h, except_error_bind, conclude_error, State.raise_viewBounds]

end

/-! ### Constructors -/

section
variable {a : RegIdx} {s : State}

theorem dataFrom_writes_payload (ha : inFile s.dr a) (k : Fin 9) (w1 w2 : Word) :
    dataFrom k a w1 w2 s = .next (ok { s with dr := s.dr.set a.toNat (some (payload k w1 w2)) }) := by
  rw [dataFrom_of_inFile ha, mkData_lanes_eq_payload]

theorem dataFrom_of_missing (ha : ¬ inFile s.dr a) (k : Fin 9) (w1 w2 : Word) :
    dataFrom k a w1 w2 s = .next (faulted s 9) := conclude_checkIndex_of_missing s ha _

/-- `DATA.NEW` of a length in bounds is the conversion of that length (41_data.md R143, R145). -/
theorem exec_dataNew_of_bounded {len : BitVec 8} {n : Fin 9} (h : n.val = len.toNat) (w1 w2 : Word) :
    exec (.dataNew a len w1 w2) s = dataFrom n a w1 w2 s := by
  rw [exec, execDataNew, boundedLength_of_eq h]
  rfl

/-- `DATA.NEW` of a longer sequence is rejected (60_exceptions.md R242). -/
theorem exec_dataNew_of_tooLarge (ha : inFile s.dr a) {len : BitVec 8} (h : 8 < len.toNat) (w1 w2 : Word) :
    exec (.dataNew a len w1 w2) s = .next (rejected s 1) := by
  rw [exec, execDataNew, conclude_checkIndex_of_inFile s ha, boundedLength_of_gt h, except_throw, conclude_error,
    State.raise_payloadTooLarge]

end

/-- Settles O27: the index check, then the conversion of the length asked for, or the rejection. -/
theorem dataNewBuildsOrRejects : Obligations.DataNewBuildsOrRejects :=
  ⟨runsAs_row .dataNew, fun _ _ w1 w2 s =>
    ⟨fun n ha hn => (exec_dataNew_of_bounded hn w1 w2).trans (dataFrom_writes_payload ha n w1 w2),
      fun ha => conclude_checkIndex_of_missing s ha _, fun ha hn => exec_dataNew_of_tooLarge ha hn w1 w2⟩⟩

/-- Settles O28: the index check and the builder of length 0, whose view no lane can tell from another empty one. -/
theorem dataEmptyBuildsTheEmptyPayload : Obligations.DataEmptyBuildsTheEmptyPayload := by
  refine ⟨runsAs_row .dataEmpty, fun a s => ⟨fun ha => ?_, fun ha => conclude_checkIndex_of_missing s ha _, fun d => ?_⟩⟩
  · rw [exec, execDataEmpty, conclude_checkIndex_of_inFile s ha, conclude_return, emptyData_eq]
    rfl
  · rw [eqData_iff_sameView]
    exact ⟨fun ⟨hlen, _⟩ => hlen.symm, fun hlen => ⟨hlen.symm, fun i hi => absurd hi (Nat.not_lt_zero i)⟩⟩

/-- The nine fixed-length conversions of `W1` and `W2` to `DR[A]`, with their lengths (41_data.md R145). -/
def conversions (a : RegIdx) (w1 w2 : Word) : List (Fin 9 × Instr) :=
  [(0, .dataFrom0 a), (1, .dataFrom1 a w1), (2, .dataFrom2 a w1), (3, .dataFrom3 a w1), (4, .dataFrom4 a w1),
    (5, .dataFrom5 a w1 w2), (6, .dataFrom6 a w1 w2), (7, .dataFrom7 a w1 w2), (8, .dataFrom8 a w1 w2)]

/-- Each conversion is the common rule with its own length: one of at most four bytes has no lane in `W2` (41_data.md R145). -/
theorem exec_conversion {a : RegIdx} {w1 w2 : Word} (s : State) :
    ∀ p ∈ conversions a w1 w2, exec p.2 s = dataFrom p.1 a w1 w2 s := by
  have empty : dataFrom 0 a 0 0 s = dataFrom 0 a w1 w2 s := dataFrom_congr (fun i hi => absurd hi (Nat.not_lt_zero i)) a s
  have low (k : Fin 9) (hk : k.val ≤ 4) : dataFrom k a w1 0 s = dataFrom k a w1 w2 s :=
    dataFrom_congr (fun i hi => wordLane_of_lt (hi.trans_le hk) ..) a s
  simp only [conversions, List.forall_mem_cons]
  exact ⟨empty, low 1 (by decide), low 2 (by decide), low 3 (by decide), low 4 (by decide), rfl, rfl, rfl, rfl,
    List.forall_mem_nil _⟩

/-- Settles O29: each is the common rule, with the words it carries and 0 for the absent ones. -/
theorem dataFromBuildsFixedLengths : Obligations.DataFromBuildsFixedLengths := by
  refine ⟨runsAs_row .dataFrom0, runsAs_row .dataFrom1, runsAs_row .dataFrom2, runsAs_row .dataFrom3,
    runsAs_row .dataFrom4, runsAs_row .dataFrom5, runsAs_row .dataFrom6, runsAs_row .dataFrom7, runsAs_row .dataFrom8,
    fun a w1 w2 s => ⟨fun ha => ?_, fun ha i hi => ?_⟩⟩
  · have writes := dataFrom_writes_payload ha
    exact ⟨writes 0 0 0, writes 1 w1 0, writes 2 w1 0, writes 3 w1 0, writes 4 w1 0, writes 5 w1 w2, writes 6 w1 w2,
      writes 7 w1 w2, writes 8 w1 w2⟩
  · obtain ⟨p, hp, rfl⟩ := List.mem_map.mp (show i ∈ (conversions a w1 w2).map Prod.snd from hi)
    rw [exec_conversion s p hp, dataFrom_of_missing ha]

/-! ### Accessors -/

/-- Settles O30: two reads of one register, each showing its length. -/
theorem dataLengthIsRead : Obligations.DataLengthIsRead := by
  refine ⟨runsAs_row .dataLen, runsAs_row .dataIsEmpty, fun a s => ⟨fun d hd => ?_, fun ha => ?_, fun ha => ?_⟩⟩
  · rw [← boolWord_len_beq_zero]
    exact ⟨readToRes0_of_holds s _ hd, readToRes0_of_holds s _ hd⟩
  · exact ⟨readToRes0_of_missing s _ ha, readToRes0_of_missing s _ ha⟩
  · exact ⟨readToRes0_of_unwritten s _ ha, readToRes0_of_unwritten s _ ha⟩

/-- Settles O31: the read shows the length and the view words, which carry the bounded view. -/
theorem dataViewShowsTheBoundedView : Obligations.DataViewShowsTheBoundedView :=
  ⟨runsAs_row .dataView, fun _ s =>
    ⟨fun d hd => ⟨viewWordLow d, viewWordHigh d,
      (conclude_checkedRead_of_holds s hd _).trans (conclude_return s _), wordLane_viewWords d⟩,
      fun ha => conclude_checkIndex_of_missing s ha _, fun ha => conclude_checkedRead_of_unwritten s ha _⟩⟩

/-- Settles O32: the read of the register, the lane index against its length, and the lane. -/
theorem dataRdbReadsOneLane : Obligations.DataRdbReadsOneLane := by
  refine ⟨runsAs_row .dataRdb, fun a idx s => ⟨fun d hd hi => ?_, fun d hd hi => ?_,
    fun ha => conclude_checkIndex_of_missing s ha _, fun ha => conclude_checkedRead_of_unwritten s ha _⟩⟩
  · rw [exec, execDataRdb, conclude_checkedRead_of_holds s hd, checkView_of_lt hi, except_ok_bind, conclude_return]
    rfl
  · rw [exec, execDataRdb, conclude_checkedRead_of_holds s hd, conclude_checkView_of_le s hi]

/-- `DATA.WRB` at or past the length ends with ViewBounds (41_data.md R159). -/
theorem exec_dataWrb_of_le {a : RegIdx} {idx : BitVec 3} {s : State} {d : Data} (byte : Byte) (hd : holds s.dr a d)
    (hi : d.len.val ≤ idx.toNat) : exec (.dataWrb a idx byte) s = .next (faulted s 11) := by
  rw [exec, execDataWrb, conclude_checkedRead_of_holds s hd, conclude_checkView_of_le s hi]

/-- Settles O33: the same checks as for a read, and the length kept with every other lane. -/
theorem dataWrbWritesOneLane : Obligations.DataWrbWritesOneLane := by
  refine ⟨runsAs_row .dataWrb, fun a idx byte s => ⟨fun d hd hi => ?_, fun d hd hi => exec_dataWrb_of_le byte hd hi,
    fun ha => conclude_checkIndex_of_missing s ha _, fun ha => conclude_checkedRead_of_unwritten s ha _⟩⟩
  refine ⟨{ d with buf := d.buf.set (laneIndex idx) byte }, ?_, rfl, setLane_lane d idx byte⟩
  rw [exec_dataWrb_of_lt byte hd hi, State.complete_eq_ok]
  rfl

/-- Settles O34: equal bounded views are equal lists, and the read of both registers shows whether they are. -/
theorem dataEqComparesBoundedViews : Obligations.DataEqComparesBoundedViews := by
  refine ⟨runsAs_row .dataEq, fun d e => eqData_iff_sameView.trans sameView_iff_take_eq, fun a b s =>
    ⟨fun d e hd he => ?_, readTwoToRes0_of_missing s _, readTwoToRes0_of_unwritten s _⟩⟩
  rw [← boolWord_decide]
  exact readTwoToRes0_of_holds s _ hd he

end Sys2Proof.Machine
end

section
/-!
The laws of the Data family (41_data.md R161): what the constructors leave, and that no command changes a length in place.
-/

namespace Sys2Proof.Machine

open Sys2Proof.Safety

theorem holds_unique {α : Type} {file : List (Option α)} {k : RegIdx} {v w : α} (hv : holds file k v)
    (hw : holds file k w) : v = w := Option.some.inj (Option.some.inj (hv.symm.trans hw))

/-- A register that holds another value than before is the command's destination. -/
theorem WritesOnly.destination_of_ne {α : Type} {d : Destination} {inThisFile : RegIdx → Destination}
    {file file' : List (Option α)} (h : WritesOnly d inThisFile file file') {k : RegIdx} {v w : α} (hv : holds file k v)
    (hw : holds file' k w) (hne : v ≠ w) : d = inThisFile k := by
  by_contra hd
  have hkept : file'[k.toNat]? = file[k.toNat]? :=
    h.getElem?_eq k.toNat (.inl (by rwa [BitVec.ofNat_toNat, BitVec.setWidth_eq]))
  exact hne (holds_unique hv (hkept.symm.trans hw))

theorem exists_dataWrb_of_mnemonic {i : Instr} (h : i.mnemonic = .dataWrb) : ∃ a idx byte, i = .dataWrb a idx byte := by
  cases i with
  | dataWrb a idx byte => exact ⟨a, idx, byte, rfl⟩
  | _ => cases h

/-- `DATA.WRB` keeps the length its register holds: it writes one lane, or ends with ViewBounds (41_data.md R159, R161). -/
theorem dataWrb_keeps_len {k : RegIdx} {idx : BitVec 3} {byte : Byte} {s t : State} {d e : Data}
    (ht : exec (.dataWrb k idx byte) s = .next t) (hd : holds s.dr k d) (he : holds t.dr k e) : e.len = d.len := by
  by_cases hi : idx.toNat < d.len.val
  · obtain rfl := Host.Outcome.next.inj ((exec_dataWrb_of_lt byte hd hi).symm.trans ht)
    rw [← holds_unique (writeReg_same _ (lt_of_getElem?_some hd)) he]
  · obtain rfl := Host.Outcome.next.inj ((exec_dataWrb_of_le byte hd (Nat.le_of_not_lt hi)).symm.trans ht)
    rw [holds_unique hd he]

/-- Settles O55: (a) and (b) are what the constructors write, and (c) reads the destination off the frame of the command. -/
theorem dataLaws : Obligations.DataLaws := by
  refine ⟨fun a len w1 w2 s ha => ?_, fun a w1 w2 s ha p hp => ?_, fun i s t k d e ht hd he hne => ?_⟩
  · by_cases hlen : 8 < len.toNat
    · refine ⟨_, exec_dataNew_of_tooLarge ha hlen w1 w2, fun n hn => by omega, fun _ => ?_⟩
      rw [← State.raise_payloadTooLarge]
      exact codeOf_statusAfterError ..
    · obtain ⟨m, hm⟩ : ∃ m : Fin 9, m.val = len.toNat := ⟨⟨len.toNat, by omega⟩, rfl⟩
      refine ⟨_, (exec_dataNew_of_bounded hm w1 w2).trans (dataFrom_writes_payload ha ..), fun n hn => ?_,
        fun h => absurd h hlen⟩
      obtain rfl : m = n := Fin.ext (hm.trans hn.symm)
      exact writeReg_same _ ha
  · exact ⟨_, (exec_conversion s p hp).trans (dataFrom_writes_payload ha ..), payload p.1 w1 w2, writeReg_same _ ha, rfl,
      fun i hi => payload_lane hi w1 w2⟩
  · have hdest : destination i = .inDr k :=
      (endsInFrame_exec s i t ht).dr.destination_of_ne hd he fun h => hne (congrArg Data.len h)
    refine ⟨hdest, fun hm => ?_⟩
    obtain ⟨a, idx, byte, rfl⟩ := exists_dataWrb_of_mnemonic hm
    obtain rfl : a = k := Destination.inDr.inj hdest
    exact hne (dataWrb_keeps_len ht hd he).symm

end Sys2Proof.Machine
end

section
/-!
Frame values (42_frame.md R180 to R182): what an Id operand word makes of a register, what shows a frame's flags and length, and
the Data of a remote frame.
-/

namespace Sys2Proof.Machine

open Sys2Proof.Safety

/-! ### The IdReg of an Id operand -/

/-- An IDW that has no IdReg is no valid Id (30_encoding.md R73). -/
theorem decodeIdW_of_idRegOfIdW_eq_none {w : Word} (h : idRegOfIdW w = none) :
    decodeIdW w = .error .invalidIdentifier := by
  unfold idRegOfIdW at h
  split at h
  case isTrue ht => exact decodeIdW_bad_extended ht fun hz => nomatch ite_eq_right_iff.mp h hz
  case isFalse ht =>
    exact decodeIdW_bad_standard (Bool.eq_false_of_not_eq_true ht) fun hz => nomatch ite_eq_right_iff.mp h hz

theorem decodeIdW_of_idRegOfIdW_ne_none {w : Word} (h : idRegOfIdW w ≠ none) : ∃ id, decodeIdW w = .ok id := by
  obtain ⟨r, hr⟩ := Option.ne_none_iff_exists'.mp h
  obtain ⟨id, hid, -⟩ := decodeIdW_of_idRegOfIdW hr
  exact ⟨id, hid⟩

theorem getLsbD_or_two (r : IdReg) (i : Nat) : (r ||| 2).getLsbD i = (r.getLsbD i || decide (i = 1)) := by
  have hbit : (2 : Word) = BitVec.twoPow 32 1 := rfl
  simp [hbit, eq_comm]

/-- The RTR bit of a remote frame, in raw bits (42_frame.md R182). -/
theorem setRtr_one (r : IdReg) : setRtr r 1 = r ||| 2 := by
  refine BitVec.eq_of_getLsbD_eq fun i _ => ?_
  rw [getLsbD_setRtr, getLsbD_or_two]
  by_cases h : i = 1 <;> simp [h]

/-- An Id operand packs with RTR 0 (40_idreg.md R109). -/
theorem getLsbD_one_of_idRegOfIdW {w : Word} {r : IdReg} (h : idRegOfIdW w = some r) : r.getLsbD 1 = false := by
  obtain ⟨id, -, rfl⟩ := decodeIdW_of_idRegOfIdW h
  exact rtr_bit_idRegOf id

theorem getLsbD_or_two_one (r : IdReg) : (r ||| 2).getLsbD 1 = true := by
  rw [getLsbD_or_two, decide_eq_true rfl, Bool.or_true]

/-- The Id word of a register packed from an IDW is that IDW (42_frame.md R187). -/
theorem encodeIdW_toId_of_idRegOfIdW {w : Word} {r : IdReg} (h : idRegOfIdW w = some r) : encodeIdW (toId r) = w := by
  obtain ⟨id, hid, rfl⟩ := decodeIdW_of_idRegOfIdW h
  rw [toId_idRegOf, encodeIdW_of_decodeIdW hid]

/-- The RTR bit plays no part in the Id word of a register. -/
theorem encodeIdW_toId_or_two (r : IdReg) : encodeIdW (toId (r ||| 2)) = encodeIdW (toId r) := by
  rw [← setRtr_one, toId_setRtr]

/-! ### What shows a frame -/

theorem boolWord_isRemoteFrame (fr : Frame) : boolWord (isRemoteFrame fr) = if fr.id.getLsbD 1 then 1 else 0 := by
  rw [isRemoteFrame, rtr_eq_ofBool]
  cases fr.id.getLsbD 1 <;> rfl

theorem boolWord_isDataFrame (fr : Frame) : boolWord (isDataFrame fr) = if fr.id.getLsbD 1 then 0 else 1 := by
  rw [isDataFrame, rtr_eq_ofBool]
  cases fr.id.getLsbD 1 <;> rfl

theorem toNat_lengthWord (n : Fin 9) : (lengthWord n).toNat = n.val :=
  (BitVec.toNat_ofNat ..).trans (Nat.mod_eq_of_lt (by omega))

/-- A written frame of a state that meets the invariant is well built (42_frame.md R191). -/
theorem wellBuilt_of_holds {s : State} {a : RegIdx} {fr : Frame} (h : invariant s = true) (hfr : holds s.fr a fr) :
    wellBuilt fr = true := by
  obtain ⟨hlegal, -⟩ := invariant_iff.mp h
  exact of_readReg hlegal.fr (readReg_of_some hfr)

/-! ### The Data of a remote frame -/

theorem remoteData_eq (n : Fin 9) : remoteData n = ⟨n, Vector.replicate 8 0⟩ := by
  rw [remoteData, emptyData_eq]

theorem remoteDlc_of_lt {dlc : BitVec 8} {n : Fin 9} (hn : n.val = dlc.toNat) (h : dlc.toNat < 8) :
    remoteDlc dlc = .ok n := (dif_pos h).trans (congrArg Except.ok (Fin.ext hn.symm))

theorem remoteDlc_of_ge {dlc : BitVec 8} (h : 8 ≤ dlc.toNat) : remoteDlc dlc = .error .invalidDlc :=
  dif_neg (Nat.not_lt.mpr h)

end Sys2Proof.Machine
end

section
/-!
The Frame commands (42_frame.md R181 to R190): each is its checks in turn, then a register written or a part of a frame shown.
-/

namespace Sys2Proof.Machine

open Sys2Proof.Safety

/-! ### The checks of a command over two files -/

section
variable {α β : Type} {fileA : List (Option α)} {fileB : List (Option β)} {a b : RegIdx} (s : State)

/-- The checks of an index of each of two files fail alike when either register is missing. -/
theorem conclude_checkIndex_of_missing_in_either (h : ¬ inFile fileA a ∨ ¬ inFile fileB b)
    (k : Unit → Except ErrorCode State) :
    conclude s (checkIndex fileA a.toNat >>= fun _ => checkIndex fileB b.toNat >>= k) = .next (faulted s 9) := by
  by_cases ha : inFile fileA a
  · rw [conclude_checkIndex_of_inFile s ha]
    exact conclude_checkIndex_of_missing s (h.resolve_left (not_not_intro ha)) k
  · exact conclude_checkIndex_of_missing s ha _

/-- A command with a destination in one file and a source in another, the source written. -/
theorem conclude_checkedCopy_of_holds {v : β} (ha : inFile fileA a) (hb : holds fileB b v)
    (k : β → Except ErrorCode State) :
    conclude s (checkIndex fileA a.toNat >>= fun _ => checkIndex fileB b.toNat >>= fun _ =>
      readReg fileB b.toNat >>= k) = conclude s (k v) := by
  rw [conclude_checkIndex_of_inFile s ha, conclude_checkedRead_of_holds s hb]

/-- A command with a destination in one file and a source in another, the source unwritten. -/
theorem conclude_checkedCopy_of_unwritten (ha : inFile fileA a) (hb : isUnwritten fileB b)
    (k : β → Except ErrorCode State) :
    conclude s (checkIndex fileA a.toNat >>= fun _ => checkIndex fileB b.toNat >>= fun _ =>
      readReg fileB b.toNat >>= k) = .next (faulted s 10) := by
  rw [conclude_checkIndex_of_inFile s ha, conclude_checkedRead_of_unwritten s hb]

/-- An Id operand that is no valid Id ends the command with InvalidIdentifier (60_exceptions.md R244). -/
theorem conclude_decodeIdW_of_invalid {w : Word} (h : idRegOfIdW w = none) (k : Id → Except ErrorCode State) :
    conclude s (decodeIdW w >>= k) = .next (rejected s 3) := by
  rw [decodeIdW_of_idRegOfIdW_eq_none h, except_error_bind, conclude_error, State.raise_invalidIdentifier]

end

/-! ### The frame formatter -/

/-- Settles O35: both index checks, the Id operand, the read of B, and the packed frame. -/
theorem frmNewdFormatsADataFrame : Obligations.FrmNewdFormatsADataFrame := by
  refine ⟨runsAs_row .frmNewd, fun a b w1 s => ⟨fun r d ha hd hr => ?_,
    fun h => conclude_checkIndex_of_missing_in_either s h _, fun ha hb hr => ?_, fun ha hb hr => ?_⟩⟩
  · rw [exec_frmNewd_of_valid ha hd hr, State.complete_eq_ok]
    rfl
  · rw [exec, execFrmNewd, conclude_checkIndex_of_inFile s ha, conclude_checkIndex_of_inFile s hb,
      conclude_decodeIdW_of_invalid s hr]
  · obtain ⟨id, hid⟩ := decodeIdW_of_idRegOfIdW_ne_none hr
    rw [exec, execFrmNewd, conclude_checkIndex_of_inFile s ha,
      conclude_checkIndex_of_inFile s (lt_of_getElem?_some hb), hid, except_ok_bind,
      conclude_readReg_of_unwritten s hb]

section
variable {a : RegIdx} {dlc : BitVec 8} {w : Word} {s : State}

/-- `FRM.NEWR` with a valid Id and a length below 8 writes the remote frame (42_frame.md R182). -/
theorem exec_frmNewr_of_valid {r : IdReg} {n : Fin 9} (ha : inFile s.fr a)
    (hr : idRegOfIdW w = some r) (hn : n.val = dlc.toNat) (hlt : dlc.toNat < 8) : exec (.frmNewr a dlc w) s =
      .next (ok { s with fr := s.fr.set a.toNat (some ⟨r ||| 2, ⟨n, Vector.replicate 8 0⟩⟩) }) := by
  obtain ⟨id, hid, rfl⟩ := decodeIdW_of_idRegOfIdW hr
  rw [exec, execFrmNewr, conclude_checkIndex_of_inFile s ha, hid, except_ok_bind, remoteDlc_of_lt hn hlt,
    except_ok_bind, conclude_return, setRtr_one, remoteData_eq]
  rfl

/-- `FRM.NEWR` with a valid Id and a length of 8 or more is rejected (60_exceptions.md R243). -/
theorem exec_frmNewr_of_invalidDlc (ha : inFile s.fr a) (hw : idRegOfIdW w ≠ none)
    (hge : 8 ≤ dlc.toNat) : exec (.frmNewr a dlc w) s = .next (rejected s 2) := by
  obtain ⟨id, hid⟩ := decodeIdW_of_idRegOfIdW_ne_none hw
  rw [exec, execFrmNewr, conclude_checkIndex_of_inFile s ha, hid, except_ok_bind, remoteDlc_of_ge hge,
    except_error_bind, conclude_error, State.raise_invalidDlc]

end

/-- Settles O36: the index check, the Id operand, the length, and the packed frame with no byte populated. -/
theorem frmNewrFormatsARemoteFrame : Obligations.FrmNewrFormatsARemoteFrame := by
  refine ⟨runsAs_row .frmNewr, fun a dlc w1 s => ⟨fun r n ha hr hn hlt => exec_frmNewr_of_valid ha hr hn hlt,
    fun ha => conclude_checkIndex_of_missing s ha _, fun ha hr => ?_,
    fun ha hw hge => exec_frmNewr_of_invalidDlc ha hw hge⟩⟩
  rw [exec, execFrmNewr, conclude_checkIndex_of_inFile s ha, conclude_decodeIdW_of_invalid s hr]

/-! ### Reads of one frame -/

theorem exec_classification (a : RegIdx) (s : State) :
    ∀ i ∈ [Instr.frmIsExt a, .frmIsStd a, .frmIsRem a, .frmIsData a], ∃ f, exec i s = readToRes0 s.fr a f s := by
  simp only [List.forall_mem_cons]
  exact ⟨⟨_, rfl⟩, ⟨_, rfl⟩, ⟨_, rfl⟩, ⟨_, rfl⟩, List.forall_mem_nil _⟩

section
variable {a : RegIdx} {s : State} {fr : Frame}

theorem exec_frmIsRem_of_holds (h : holds s.fr a fr) :
    exec (.frmIsRem a) s = .next (ok { s with res0 := if fr.id.getLsbD 1 then 1 else 0 }) := by
  rw [← boolWord_isRemoteFrame]
  exact readToRes0_of_holds s _ h

theorem exec_frmIsData_of_holds (h : holds s.fr a fr) :
    exec (.frmIsData a) s = .next (ok { s with res0 := if fr.id.getLsbD 1 then 0 else 1 }) := by
  rw [← boolWord_isDataFrame]
  exact readToRes0_of_holds s _ h

theorem exec_frmId_of_holds (h : holds s.fr a fr) :
    exec (.frmId a) s = .next (ok { s with res0 := encodeIdW (toId fr.id) }) := readToRes0_of_holds s _ h

theorem exec_frmDlc_of_holds (h : holds s.fr a fr) :
    exec (.frmDlc a) s = .next (ok { s with res0 := lengthWord fr.data.len }) := readToRes0_of_holds s _ h

end

/-- Settles O37: four reads of one register, each showing one bit of its IdReg. -/
theorem frmClassificationReadsTheFlags : Obligations.FrmClassificationReadsTheFlags := by
  refine ⟨runsAs_row .frmIsExt, runsAs_row .frmIsStd, runsAs_row .frmIsRem, runsAs_row .frmIsData,
    fun w r hr => ⟨getLsbD_one_of_idRegOfIdW hr, getLsbD_or_two_one r⟩,
    fun a s => ⟨fun fr hfr => ⟨?_, readToRes0_of_holds s _ hfr, exec_frmIsRem_of_holds hfr,
      exec_frmIsData_of_holds hfr⟩, fun ha i hi => ?_, fun ha i hi => ?_⟩⟩
  · rw [← boolWord_isExtended]
    exact readToRes0_of_holds s _ hfr
  · obtain ⟨f, hf⟩ := exec_classification a s i hi
    rw [hf, readToRes0_of_missing s f ha]
  · obtain ⟨f, hf⟩ := exec_classification a s i hi
    rw [hf, readToRes0_of_unwritten s f ha]

/-- Settles O38: two reads of one register, the Id word it was packed from, and the length its formatter bounds. -/
theorem frmIdAndDlcAreRead : Obligations.FrmIdAndDlcAreRead := by
  refine ⟨runsAs_row .frmId, runsAs_row .frmDlc, fun a s => ⟨fun fr hfr => ?_, fun ha => ?_, fun ha => ?_⟩,
    fun a s w r d hr => ⟨fun hfr => ?_, fun hfr => ?_⟩, fun a s t fr hs hfr hrem ht => ?_⟩
  · rw [← encodeIdW_toId]
    exact ⟨exec_frmId_of_holds hfr, exec_frmDlc_of_holds hfr⟩
  · exact ⟨readToRes0_of_missing s _ ha, readToRes0_of_missing s _ ha⟩
  · exact ⟨readToRes0_of_unwritten s _ ha, readToRes0_of_unwritten s _ ha⟩
  · rw [exec_frmId_of_holds hfr, encodeIdW_toId_of_idRegOfIdW hr]
  · rw [exec_frmId_of_holds hfr, encodeIdW_toId_or_two, encodeIdW_toId_of_idRegOfIdW hr]
  · obtain rfl := Host.Outcome.next.inj ((exec_frmDlc_of_holds hfr).symm.trans ht)
    obtain ⟨-, -, hremote⟩ := wellBuilt_iff.mp (wellBuilt_of_holds hs hfr)
    obtain ⟨hlen, -⟩ := hremote hrem
    exact (toNat_lengthWord fr.data.len).trans_le hlen

/-! ### Copies out of a frame -/

section
variable {a b : RegIdx} {s : State} {fr : Frame}

/-- `FRM.DATA` of a data frame copies its payload (42_frame.md R189). -/
theorem exec_frmData_of_data (ha : inFile s.dr a) (hfr : holds s.fr b fr) (hrtr : fr.id.getLsbD 1 = false) :
    exec (.frmData a b) s = .next (ok { s with dr := s.dr.set a.toNat (some fr.data), res0 := 1 }) := by
  rw [exec, execFrmData, conclude_checkedCopy_of_holds s ha hfr, if_pos (isDataFrame_iff.mpr hrtr), conclude_return]
  rfl

/-- `FRM.DATA` of a remote frame copies nothing (42_frame.md R189). -/
theorem exec_frmData_of_remote (ha : inFile s.dr a) (hfr : holds s.fr b fr) (hrtr : fr.id.getLsbD 1 = true) :
    exec (.frmData a b) s = .next (ok { s with res0 := 0 }) := by
  have hremote : ¬ isDataFrame fr = true := fun h => ne_true_of_eq_false (isDataFrame_iff.mp h) hrtr
  rw [exec, execFrmData, conclude_checkedCopy_of_holds s ha hfr, if_neg hremote, conclude_return]
  rfl

end

/-- Settles O39: both index checks, the read of B, and the copy that only a data frame makes. -/
theorem frmDataCopiesADataFramesPayload : Obligations.FrmDataCopiesADataFramesPayload :=
  ⟨runsAs_row .frmData, fun _ _ s => ⟨fun _ => exec_frmData_of_data, fun _ => exec_frmData_of_remote,
    fun h => conclude_checkIndex_of_missing_in_either s h _, fun ha hb => conclude_checkedCopy_of_unwritten s ha hb _⟩⟩

/-- Settles O40: both index checks, the read of B, and the copy of its IdReg. -/
theorem frmPrioCopiesTheKey : Obligations.FrmPrioCopiesTheKey :=
  ⟨runsAs_row .frmPrio, fun _ _ s =>
    ⟨fun _ ha hfr => (conclude_checkedCopy_of_holds s ha hfr _).trans (conclude_return s _),
      fun h => conclude_checkIndex_of_missing_in_either s h _,
      fun ha hb => conclude_checkedCopy_of_unwritten s ha hb _⟩⟩

end Sys2Proof.Machine
end

section
/-!
The laws of the Frame family (42_frame.md R192): what the reads of a frame show right after the formatter has built it.
-/

namespace Sys2Proof.Machine

open Sys2Proof.Safety

theorem codeOf_ok (s : State) : codeOf (ok s).status = 0 := by
  rw [← State.complete_eq_ok]
  exact codeOf_statusAfterOk s.status

/-- Settles O56: the reads of the frame that the formatter has just written. -/
theorem frameLaws : Obligations.FrameLaws := by
  refine ⟨fun f a dlc w s hf ha hw => ⟨fun hlt => ?_, exec_frmNewr_of_invalidDlc hf hw⟩,
    fun f d a w s x hf ha hx hw => ?_⟩
  · obtain ⟨r, hr⟩ := Option.ne_none_iff_exists'.mp hw
    obtain ⟨n, hn⟩ : ∃ n : Fin 9, n.val = dlc.toNat := ⟨⟨dlc.toNat, by omega⟩, rfl⟩
    have hrtr := getLsbD_or_two_one r
    have hfr : holds (writeReg s.fr f.toNat ⟨r ||| 2, ⟨n, Vector.replicate 8 0⟩⟩) f _ := writeReg_same _ hf
    exact ⟨_, _, _, _, exec_frmNewr_of_valid hf hr hn hlt, codeOf_ok _, exec_frmIsRem_of_holds hfr, if_pos hrtr,
      exec_frmDlc_of_holds hfr, (toNat_lengthWord n).trans hn, exec_frmData_of_remote ha hfr hrtr, rfl, rfl⟩
  · obtain ⟨r, hr⟩ := Option.ne_none_iff_exists'.mp hw
    have hrtr := getLsbD_one_of_idRegOfIdW hr
    have hfr : holds (writeReg s.fr f.toNat ⟨r, x⟩) f _ := writeReg_same _ hf
    exact ⟨_, _, _, _, x, exec_frmNewd_of_valid hf hx hr, exec_frmIsData_of_holds hfr,
      if_neg (ne_true_of_eq_false hrtr), exec_frmDlc_of_holds hfr, toNat_lengthWord x.len,
      exec_frmData_of_data ha hfr hrtr, rfl, writeReg_same _ ha, eqData_iff_sameView.mpr (sameView_refl x)⟩

end Sys2Proof.Machine
end

section
/-!
The arbiter (43_priority.md R220 to R223): its loop is the library's first least element, so `ARB.SEL` answers the least selected
key of lowest index, and taking the winner away again and again lists the selected registers in order.
-/

namespace Sys2Proof.Machine

open Sys2Proof.Safety

/-! ### The loop over the candidates -/

/-- One round of the loop is a step of the library's search by the keys' numbers (43_priority.md R220, R222). -/
theorem betterOf_eq_argAux : betterOf = List.argAux fun b c => b.2.toNat < c.2.toNat := by
  funext best c
  cases best with
  | none => rfl
  | some b => simp only [betterOf, prioCmp, cmpIdReg_eq_lt, List.argAux]

theorem arbitrate_eq_argmin (cs : List (Nat × FramePriority)) : arbitrate cs = cs.argmin fun c => c.2.toNat := by
  rw [arbitrate, betterOf_eq_argAux]
  rfl

/-- In a list in ascending order of `f`, what stands no later has no higher value. -/
theorem le_of_idxOf_le {α : Type} [DecidableEq α] {f : α → Nat} {l : List α} {a b : α}
    (hl : (l.map f).Pairwise (· < ·)) (ha : a ∈ l) (hb : b ∈ l) (h : l.idxOf a ≤ l.idxOf b) : f a ≤ f b := by
  have hle : l.Pairwise fun x y => f x ≤ f y := (List.pairwise_map.mp hl).imp Nat.le_of_lt
  have : Std.Refl fun x y => f x ≤ f y := ⟨fun x => (f x).le_refl⟩
  simpa using hle.rel_get_of_le (a := ⟨_, List.idxOf_lt_length_of_mem ha⟩) (b := ⟨_, List.idxOf_lt_length_of_mem hb⟩) h

/-- Among candidates in ascending index order the loop finds the least key, of the lowest index among equal ones. -/
theorem arbitrate_le {cs : List (Nat × FramePriority)} {c d : Nat × FramePriority}
    (hcs : (cs.map Prod.fst).Pairwise (· < ·)) (hc : arbitrate cs = some c) (hd : d ∈ cs) :
    c.2.toNat ≤ d.2.toNat ∧ (d.1 < c.1 → c.2.toNat < d.2.toNat) := by
  rw [arbitrate_eq_argmin] at hc
  refine ⟨List.le_of_mem_argmin (f := fun c => c.2.toNat) hd hc, fun hlt => Nat.lt_of_not_le fun hle => ?_⟩
  exact hlt.not_ge (le_of_idxOf_le hcs (List.argmin_mem hc) hd (List.index_of_argmin hc hd hle))

/-! ### The candidates of a mask -/

theorem mem_maskIndices_iff {mask : BitVec 8} {i : Nat} : i ∈ maskIndices mask ↔ mask.getLsbD i = true :=
  mem_maskIndices.trans (and_iff_right_of_imp BitVec.lt_of_getLsbD)

theorem maskIndices_pairwise_lt (mask : BitVec 8) : (maskIndices mask).Pairwise (· < ·) :=
  List.Pairwise.filter _ (by decide)

theorem maskIndices_length_le (mask : BitVec 8) : (maskIndices mask).length ≤ 8 := List.length_filter_le ..

theorem maskIndices_eq_nil {mask : BitVec 8} : maskIndices mask = [] ↔ mask = 0 := by
  refine ⟨fun h => BitVec.eq_of_getLsbD_eq fun i _ => ?_, fun h => h ▸ rfl⟩
  have hi : ¬ mask.getLsbD i = true := by
    rw [← mem_maskIndices_iff, h]
    exact List.not_mem_nil
  exact (Bool.eq_false_of_not_eq_true hi).trans BitVec.getLsbD_zero.symm

/-- Every register the mask selects holds a key. -/
def KeysWritten (mask : BitVec 8) (file : List (Option FramePriority)) : Prop :=
  ∀ i, mask.getLsbD i = true → ∃ p, file[i]? = some (some p)

/-- Register `w` holds the selected key `p`, the least one and of the lowest index among equal ones (43_priority.md R222). -/
structure IsWinner (mask : BitVec 8) (file : List (Option FramePriority)) (w : Nat) (p : FramePriority) : Prop where
  selected : mask.getLsbD w = true
  held : file[w]? = some (some p)
  least : ∀ j q, mask.getLsbD j = true → file[j]? = some (some q) → p.toNat ≤ q.toNat ∧ (j < w → p.toNat < q.toNat)

/-- The reads of registers that all hold values succeed. -/
theorem exists_readRegs {α : Type} {file : List (Option α)} {is : List Nat}
    (h : ∀ i ∈ is, ∃ v, file[i]? = some (some v)) : ∃ cs, readRegs file is = .ok cs := by
  induction is with
  | nil => exact ⟨[], rfl⟩
  | cons i is ih =>
    obtain ⟨⟨v, hv⟩, his⟩ := List.forall_mem_cons.mp h
    obtain ⟨cs, hcs⟩ := ih his
    exact ⟨(i, v) :: cs, by simp [readRegs, readReg_of_some hv, hcs]⟩

section
variable {mask : BitVec 8} {file : List (Option FramePriority)} {cs : List (Nat × FramePriority)}

theorem mem_candidates_iff (hcs : readRegs file (maskIndices mask) = .ok cs) (c : Nat × FramePriority) :
    c ∈ cs ↔ mask.getLsbD c.1 = true ∧ file[c.1]? = some (some c.2) := by
  obtain ⟨hfst, hheld⟩ := readRegs_eq_ok.mp hcs
  rw [← mem_maskIndices_iff, ← hfst, List.mem_map]
  refine ⟨fun hc => ⟨⟨c, hc, rfl⟩, hheld c hc⟩, ?_⟩
  rintro ⟨⟨d, hd, hdc⟩, hc⟩
  have hval := hheld d hd
  rw [hdc, hc] at hval
  obtain rfl : d = c := Prod.ext hdc (Option.some.inj (Option.some.inj hval)).symm
  exact hd

/-- The loop over the candidates of a non-empty mask finds the winner. -/
theorem exists_winner (hmask : mask ≠ 0) (hcs : readRegs file (maskIndices mask) = .ok cs) :
    ∃ w p, arbitrate cs = some (w, p) ∧ IsWinner mask file w p := by
  obtain ⟨hfst, -⟩ := readRegs_eq_ok.mp hcs
  cases hw : arbitrate cs with
  | none =>
    rw [arbitrate_eq_argmin, List.argmin_eq_none] at hw
    exact absurd (maskIndices_eq_nil.mp (by rw [← hfst, hw, List.map_nil])) hmask
  | some c =>
    have hc : c ∈ cs := List.argmin_mem (arbitrate_eq_argmin cs ▸ hw)
    obtain ⟨hsel, hheld⟩ := (mem_candidates_iff hcs c).mp hc
    exact ⟨c.1, c.2, rfl, hsel, hheld, fun j q hj hq =>
      arbitrate_le (hfst ▸ maskIndices_pairwise_lt mask) hw ((mem_candidates_iff hcs (j, q)).mpr ⟨hj, hq⟩)⟩

end

/-! ### The commands -/

/-- Settles O41: the read of both registers shows the order of their numbers. -/
theorem priCmpOrdersTwoKeys : Obligations.PriCmpOrdersTwoKeys := by
  refine ⟨runsAs_row .priCmp, fun a b s =>
    ⟨fun x y hx hy => ?_, readTwoToRes0_of_missing s _, readTwoToRes0_of_unwritten s _⟩⟩
  rw [← orderWord_compare, ← cmpIdReg_eq_compare]
  exact readTwoToRes0_of_holds s _ hx hy

/-- An empty mask answers 0 (43_priority.md R222). -/
theorem exec_arbSel_zero (s : State) : exec (.arbSel 0) s = .next (ok { s with res0 := 0 }) := conclude_return s _

section
variable {mask : BitVec 8} {s : State}

/-- `ARB.SEL` of existing registers is its reads, then the result word of its loop. -/
theorem exec_arbSel_of_inFile (h : ∀ i, mask.getLsbD i = true → i < s.pr.length) :
    exec (.arbSel mask) s = conclude s do
      let candidates ← readRegs s.pr (maskIndices mask)
      return s.setRes0 (arbiterWord (arbitrate candidates)) := by
  rw [exec, execArbSel, checkIndices_eq_ok (u := ()) |>.mpr fun i hi => h i (mem_maskIndices_iff.mp hi),
    except_ok_bind]

/-- `ARB.SEL` of a non-empty mask whose registers hold keys answers VALID and the winner's index. -/
theorem exec_arbSel_of_written (hmask : mask ≠ 0) (h : KeysWritten mask s.pr) :
    ∃ w p, IsWinner mask s.pr w p ∧
      exec (.arbSel mask) s = .next (ok { s with res0 := 0x100 ||| BitVec.ofNat 32 w }) := by
  obtain ⟨cs, hcs⟩ := exists_readRegs fun i hi => h i (mem_maskIndices_iff.mp hi)
  obtain ⟨w, p, harb, hwin⟩ := exists_winner hmask hcs
  refine ⟨w, p, hwin, ?_⟩
  rw [exec_arbSel_of_inFile fun i hi => (h i hi).elim fun _ => lt_of_getElem?_some, hcs, except_ok_bind, harb,
    conclude_return]
  rfl

theorem exec_arbSel_of_unwritten {i : Nat} (h : ∀ j, mask.getLsbD j = true → j < s.pr.length)
    (hi : mask.getLsbD i = true) (hnone : s.pr[i]? = some none) : exec (.arbSel mask) s = .next (faulted s 10) := by
  rw [exec_arbSel_of_inFile h]
  cases hr : readRegs s.pr (maskIndices mask) with
  | ok cs =>
    obtain ⟨hfst, hheld⟩ := readRegs_eq_ok.mp hr
    obtain ⟨c, hc, rfl⟩ := List.mem_map.mp (hfst ▸ mem_maskIndices_iff.mpr hi)
    simp [hheld c hc] at hnone
  | error e => rw [readRegs_error hr, except_error_bind, conclude_error, State.raise_unwritten]

end

/-- Settles O42: the index checks, the reads, and the least candidate that the loop keeps. -/
theorem arbSelPicksTheLeastKey : Obligations.ArbSelPicksTheLeastKey := by
  refine ⟨runsAs_row .arbSel, fun mask s => ⟨fun h => h ▸ exec_arbSel_zero s, fun hmask h => ?_, ?_, ?_⟩⟩
  · obtain ⟨w, p, hwin, hexec⟩ := exec_arbSel_of_written hmask h
    exact ⟨w, p, hwin.selected, hwin.held, hexec, hwin.least⟩
  · rintro ⟨i, hi, hlen⟩
    exact exec_arbSel_of_missing (mem_maskIndices_iff.mpr hi) hlen
  · rintro hlen ⟨i, hi, hnone⟩
    exact exec_arbSel_of_unwritten hlen hi hnone

/-! ### Repeated arbitration -/

/-- The mask without register `w` (43_priority.md R223). -/
def without (mask : BitVec 8) (w : Nat) : BitVec 8 := mask &&& ~~~((1 : BitVec 8) <<< w)

theorem getLsbD_without (mask : BitVec 8) (w i : Nat) :
    (without mask w).getLsbD i = true ↔ mask.getLsbD i = true ∧ i ≠ w := by
  have hbit : (1 : BitVec 8) <<< w = BitVec.twoPow 8 w := rfl
  by_cases hi : i < 8
  · rw [without, hbit, BitVec.getLsbD_and, BitVec.getLsbD_not, BitVec.getLsbD_twoPow]
    obtain rfl | hne := eq_or_ne i w
    · simp [hi]
    · simp [hi, hne, hne.symm]
  · simp [BitVec.getLsbD_of_ge _ _ (Nat.le_of_not_lt hi)]

theorem maskIndices_without (mask : BitVec 8) (w : Nat) :
    maskIndices (without mask w) = (maskIndices mask).filter (· ≠ w) := by
  rw [maskIndices, maskIndices, List.filter_filter]
  refine List.filter_congr fun i _ => Bool.eq_iff_iff.mpr ?_
  rw [getLsbD_without, Bool.and_eq_true, decide_eq_true_iff, and_comm]

/-- Taking a selected register away leaves fewer. -/
theorem maskIndices_without_length_lt {mask : BitVec 8} {w : Nat} (h : mask.getLsbD w = true) :
    (maskIndices (without mask w)).length < (maskIndices mask).length := by
  rw [maskIndices_without, List.length_filter_lt_length_iff_exists]
  exact ⟨w, mem_maskIndices_iff.mpr h, by simp⟩

/-- The VALID bit and the index field of the word that names a winner (43_priority.md R222). -/
theorem arbiterWord_fields {w : Nat} (h : w < 8) :
    (0x100 ||| BitVec.ofNat 32 w).getLsbD 8 = true ∧ ((0x100 ||| BitVec.ofNat 32 w).extractLsb' 0 3).toNat = w := by
  interval_cases w <;> decide

theorem arbSort_zero (n : Nat) (s : State) : arbSort n 0 s = [] := by
  cases n with
  | zero => rfl
  | succ n =>
    rw [arbSort, exec_arbSel_zero]
    exact if_neg (ne_true_of_eq_false BitVec.getLsbD_zero)

/-- Repeated arbitration lists the winner, then what the mask without it gives in a state with the same keys. -/
theorem arbSort_succ {mask : BitVec 8} {s : State} (hmask : mask ≠ 0) (h : KeysWritten mask s.pr) (n : Nat) :
    ∃ w p t, IsWinner mask s.pr w p ∧ t.pr = s.pr ∧ arbSort (n + 1) mask s = w :: arbSort n (without mask w) t := by
  obtain ⟨w, p, hwin, hexec⟩ := exec_arbSel_of_written hmask h
  obtain ⟨hvalid, hindex⟩ := arbiterWord_fields (BitVec.lt_of_getLsbD hwin.selected)
  refine ⟨w, p, ok { s with res0 := 0x100 ||| BitVec.ofNat 32 w }, hwin, rfl, ?_⟩
  simp only [arbSort, hexec, ok, hvalid, hindex, if_true, without]

/-- The order of repeated arbitration: lower key, or equal key and lower index (43_priority.md R223). -/
def KeyBefore (file : List (Option FramePriority)) (i j : Nat) : Prop :=
  ∀ p q, file[i]? = some (some p) → file[j]? = some (some q) → p.toNat < q.toNat ∨ (p.toNat = q.toNat ∧ i < j)

theorem IsWinner.keyBefore {mask : BitVec 8} {file : List (Option FramePriority)} {w j : Nat} {p : FramePriority}
    (h : IsWinner mask file w p) (hj : mask.getLsbD j = true) (hne : j ≠ w) : KeyBefore file w j := by
  intro p' q hp' hq
  obtain rfl : p = p' := Option.some.inj (Option.some.inj (h.held.symm.trans hp'))
  obtain ⟨hle, hlt⟩ := h.least j q hj hq
  omega

/-- With fuel for every selected register, repeated arbitration lists exactly those, in order. -/
theorem arbSort_spec {n : Nat} {mask : BitVec 8} {s : State} (h : KeysWritten mask s.pr)
    (hn : (maskIndices mask).length ≤ n) :
    (∀ i, i ∈ arbSort n mask s ↔ mask.getLsbD i = true) ∧ (arbSort n mask s).Pairwise (KeyBefore s.pr) := by
  induction n generalizing mask s with
  | zero =>
    obtain rfl := maskIndices_eq_nil.mp (List.eq_nil_of_length_eq_zero (Nat.le_zero.mp hn))
    simp [arbSort]
  | succ n ih =>
    obtain rfl | hmask := eq_or_ne mask 0
    · rw [arbSort_zero]
      exact ⟨fun i => by simp, .nil⟩
    · obtain ⟨w, p, t, hwin, hpr, hsort⟩ := arbSort_succ hmask h n
      have hless := maskIndices_without_length_lt hwin.selected
      have hrest : KeysWritten (without mask w) t.pr := fun i hi => hpr ▸ h i ((getLsbD_without ..).mp hi).1
      obtain ⟨hmem, hpairs⟩ := ih hrest (by omega)
      rw [hsort, List.pairwise_cons]
      refine ⟨fun i => ?_, fun j hj => ?_, hpr ▸ hpairs⟩
      · rw [List.mem_cons, hmem, getLsbD_without]
        by_cases hi : i = w <;> simp [hi, hwin.selected]
      · obtain ⟨hsel, hne⟩ := (getLsbD_without ..).mp ((hmem j).mp hj)
        exact hwin.keyBefore hsel hne

/-- Settles O43: each round takes the winner away, and eight rounds empty any mask. -/
theorem repeatedArbitrationSorts : Obligations.RepeatedArbitrationSorts :=
  fun mask _ h => arbSort_spec h (maskIndices_length_le mask)

end Sys2Proof.Machine
end

section
/-!
Which code a command reports (60_exceptions.md R240 to R249): a rule for each check a command makes, in the order of R249,
then one statement for every command, `endsWithCode_exec`: it completes with STATUS kept until its end, or raises the reported
code.
-/

namespace Sys2Proof.Machine

open Sys2Proof.Safety

/-! ### How a command ends -/

/-- A command that started in `s` ends with the code `c`: it completes from a state with the STATUS of `s` when `c` is 0, or
raises the error of that number (60_exceptions.md R240, R250). -/
def EndsWithCode (s : State) (c : Word) (o : Host.Outcome State Fault Refusal) : Prop :=
  (c = 0 ∧ ∃ u : State, u.status = s.status ∧ o = .next u.complete) ∨
    ∃ e : ErrorCode, c = e.number.zeroExtend 32 ∧ o = .next (s.raise e)

/-- The first code that applies in the order of 60_exceptions.md R249, from whether the registers exist, the Id operand is bad
and a source register is unwritten, and from the operation's own code. -/
def firstCode (legal bad unwritten : Bool) (own : Word) : Word :=
  if !legal then 9 else if bad then 3 else if unwritten then 10 else own

theorem reportedCode_eq_firstCode (s : State) (i : Instr) : reportedCode s i =
    firstCode (i.wellFormed s.sizes) (badIdentifier i) (readsUnwritten s i) (ownCode s i) := rfl

theorem unwrittenAt_iff {α : Type} {file : List (Option α)} {a : RegIdx} :
    unwrittenAt file a = true ↔ isUnwritten file a := by
  unfold unwrittenAt isUnwritten
  split <;> simp_all

theorem unwrittenAt_of_holds {α : Type} {file : List (Option α)} {a : RegIdx} {v : α} (h : holds file a v) :
    unwrittenAt file a = false := by
  simp only [unwrittenAt, h]

theorem lengthAt_of_holds {file : List (Option Data)} {a : RegIdx} {d : Data} (h : holds file a d) :
    lengthAt file a = d.len.val := by
  simp only [lengthAt, h]

/-- The decoding of an Id operand that is invalid exactly when `bad` holds (60_exceptions.md R244). -/
def ValidatesId {β : Type} (bad : Bool) (x : Except ErrorCode β) : Prop :=
  (bad = true ∧ x = .error .invalidIdentifier) ∨ (bad = false ∧ ∃ v, x = .ok v)

/-- A decoding that fails exactly when a field of the word is not 0. -/
theorem ValidatesId.of_field {β : Type} {n : Nat} {z : BitVec n} {x : Except ErrorCode β}
    (hok : z = 0 → ∃ v, x = .ok v) (herror : z ≠ 0 → x = .error .invalidIdentifier) : ValidatesId (z != 0) x := by
  by_cases hz : z = 0
  · exact .inr ⟨bne_eq_false_iff_eq.mpr hz, hok hz⟩
  · exact .inl ⟨bne_iff_ne.mpr hz, herror hz⟩

theorem validatesId_decodeStdW (w : Word) : ValidatesId (w.extractLsb' 11 21 != 0) (decodeStdW w) :=
  .of_field (fun hz => ⟨_, if_pos hz⟩) fun hz => if_neg hz

theorem validatesId_decodeExtW (w : Word) : ValidatesId (w.extractLsb' 29 3 != 0) (decodeExtW w) :=
  .of_field (fun hz => ⟨_, if_pos hz⟩) fun hz => if_neg hz

theorem validatesId_decodeIdW (w : Word) : ValidatesId (badIdW w) (decodeIdW w) := by
  unfold badIdW
  split
  case isTrue ht => exact .of_field (fun hz => ⟨_, decodeIdW_extended ht hz⟩) (decodeIdW_bad_extended ht)
  case isFalse hf =>
    have ht : w.getLsbD 31 = false := Bool.eq_false_of_not_eq_true hf
    exact .of_field (fun hz => ⟨_, decodeIdW_standard ht hz⟩) (decodeIdW_bad_standard ht)

/-! ### The registers of a mask -/

theorem maskLegal_eq_all (n : Nat) (mask : BitVec 8) : maskLegal n mask = (maskIndices mask).all fun i => decide (i < n) :=
  List.all_filter.symm

theorem maskLegal_eq_true {n : Nat} {mask : BitVec 8} :
    maskLegal n mask = true ↔ ∀ i, mask.getLsbD i = true → i < n := by
  simp [maskLegal_eq_all, mem_maskIndices_iff]

theorem maskLegal_eq_false {n : Nat} {mask : BitVec 8} :
    maskLegal n mask = false ↔ ∃ i, mask.getLsbD i = true ∧ n ≤ i := by
  rw [← Bool.not_eq_true, maskLegal_eq_true]
  simp

theorem readsUnwritten_arbSel {mask : BitVec 8} {s : State} :
    readsUnwritten s (.arbSel mask) = true ↔ ∃ i, mask.getLsbD i = true ∧ s.pr[i]? = some none := by
  simp only [readsUnwritten, List.any_eq_true, Bool.and_eq_true, unwrittenAt_iff]
  constructor
  · rintro ⟨a, -, hsel, hnone⟩
    exact ⟨a.toNat, hsel, hnone⟩
  · rintro ⟨i, hsel, hnone⟩
    have hi : (BitVec.ofNat 3 i).toNat = i := Nat.mod_eq_of_lt (BitVec.lt_of_getLsbD hsel)
    have hall : ∀ a : RegIdx, a ∈ [0, 1, 2, 3, 4, 5, 6, 7] := by decide
    exact ⟨BitVec.ofNat 3 i, hall _, by rwa [hi], by rwa [isUnwritten, hi]⟩

/-- A selected register that exists and is not unwritten holds a key. -/
theorem written_of_selected {mask : BitVec 8} {s : State} {i : Nat} (hin : ∀ i, mask.getLsbD i = true → i < s.pr.length)
    (h : readsUnwritten s (.arbSel mask) = false) (hi : mask.getLsbD i = true) : ∃ p, s.pr[i]? = some (some p) :=
  (reg_cases (hin i hi)).resolve_left fun hnone =>
    Bool.false_ne_true (h.symm.trans (readsUnwritten_arbSel.mpr ⟨i, hi, hnone⟩))

/-! ### The checks in the order of R249 -/

namespace EndsWithCode

variable {α : Type} {file : List (Option α)} {a : RegIdx} {s : State} {legal bad unwritten : Bool} {own : Word}

theorem raise (s : State) (e : ErrorCode) : EndsWithCode s (e.number.zeroExtend 32) (.next (s.raise e)) :=
  .inr ⟨e, rfl, rfl⟩

theorem ret {u : State} (h : u.status = s.status) :
    EndsWithCode s (firstCode true false false 0) (conclude s (pure u)) := .inl ⟨rfl, u, h, rfl⟩

/-- The operation's own condition (60_exceptions.md R242, R243, R248). -/
theorem own_error (e : ErrorCode) (k : α → Except ErrorCode State) :
    EndsWithCode s (firstCode true false false (e.number.zeroExtend 32)) (conclude s (.error e >>= k)) := raise s e

/-- An index check comes before everything after it. -/
theorem index {k : Unit → Except ErrorCode State}
    (h : inFile file a → EndsWithCode s (firstCode legal bad unwritten own) (conclude s (k ()))) :
    EndsWithCode s (firstCode (indexLegal file.length a && legal) bad unwritten own)
      (conclude s (checkIndex file a.toNat >>= k)) := by
  by_cases ha : inFile file a
  · rw [checkIndex_of_lt ha, indexLegal, decide_eq_true ha]
    exact h ha
  · rw [checkIndex_of_le (Nat.le_of_not_lt ha), indexLegal, decide_eq_false ha]
    exact raise s .indexRange

theorem last_index {k : Unit → Except ErrorCode State}
    (h : inFile file a → EndsWithCode s (firstCode true bad unwritten own) (conclude s (k ()))) :
    EndsWithCode s (firstCode (indexLegal file.length a) bad unwritten own)
      (conclude s (checkIndex file a.toNat >>= k)) :=
  Bool.and_true (indexLegal file.length a) ▸ index h

/-- The validity of the Id operand comes after the index checks. -/
theorem operand {x : Except ErrorCode α} {k : α → Except ErrorCode State} (hx : ValidatesId bad x)
    (h : ∀ v, EndsWithCode s (firstCode true false unwritten own) (conclude s (k v))) :
    EndsWithCode s (firstCode true bad unwritten own) (conclude s (x >>= k)) := by
  obtain ⟨rfl, rfl⟩ | ⟨rfl, v, rfl⟩ := hx
  · exact raise s .invalidIdentifier
  · exact h v

/-- A read of a source register comes after the validity of the Id operand. -/
theorem read {k : α → Except ErrorCode State} (ha : inFile file a)
    (h : ∀ v, holds file a v → EndsWithCode s (firstCode true false unwritten own) (conclude s (k v))) :
    EndsWithCode s (firstCode true false (unwrittenAt file a || unwritten) own)
      (conclude s (readReg file a.toNat >>= k)) := by
  obtain hnone | ⟨v, hv⟩ := reg_cases ha
  · rw [readReg_of_none hnone, unwrittenAt_iff.mpr hnone]
    exact raise s .unwritten
  · rw [readReg_of_some hv, unwrittenAt_of_holds hv]
    exact h v hv

theorem last_read {k : α → Except ErrorCode State} (ha : inFile file a)
    (h : ∀ v, holds file a v → EndsWithCode s (firstCode true false false own) (conclude s (k v))) :
    EndsWithCode s (firstCode true false (unwrittenAt file a) own) (conclude s (readReg file a.toNat >>= k)) :=
  Bool.or_false (unwrittenAt file a) ▸ read ha h

/-- A lane index is checked against the length of the Data that was read. -/
theorem lane {d : Data} {idx : BitVec 3} {k : Unit → Except ErrorCode State} (hd : holds s.dr a d)
    (h : EndsWithCode s (firstCode true false false 0) (conclude s (k ()))) :
    EndsWithCode s (firstCode true false false (if lengthAt s.dr a ≤ idx.toNat then 11 else 0))
      (conclude s (checkView d idx >>= k)) := by
  rw [lengthAt_of_holds hd]
  by_cases hi : d.len.val ≤ idx.toNat
  · rw [checkView_of_le hi, if_pos hi]
    exact own_error .viewBounds k
  · rw [checkView_of_lt (Nat.lt_of_not_le hi), if_neg hi]
    exact h

/-! ### The commands -/

theorem readToRes0 (file : List (Option α)) (a : RegIdx) (f : α → Word) (s : State) :
    EndsWithCode s (firstCode (indexLegal file.length a) false (unwrittenAt file a) 0) (readToRes0 file a f s) :=
  last_index fun ha => last_read ha fun _ _ => ret rfl

theorem readTwoToRes0 (file : List (Option α)) (a b : RegIdx) (f : α → α → Word) (s : State) :
    EndsWithCode s
      (firstCode (indexLegal file.length a && indexLegal file.length b) false (unwrittenAt file a || unwrittenAt file b) 0)
      (readTwoToRes0 file a b f s) :=
  index fun ha => last_index fun hb => read ha fun _ _ => last_read hb fun _ _ => ret rfl

theorem dataFrom (k : Fin 9) (a : RegIdx) (w1 w2 : Word) (s : State) :
    EndsWithCode s (firstCode (indexLegal s.dr.length a) false false 0) (dataFrom k a w1 w2 s) :=
  last_index fun _ => ret rfl

theorem idStd (a : RegIdx) (w1 : Word) (s : State) :
    EndsWithCode s (reportedCode s (.idStd a w1)) (execIdStd a w1 s) :=
  last_index fun _ => operand (validatesId_decodeStdW w1) fun _ => ret rfl

theorem idExt (a : RegIdx) (w1 : Word) (s : State) :
    EndsWithCode s (reportedCode s (.idExt a w1)) (execIdExt a w1 s) :=
  last_index fun _ => operand (validatesId_decodeExtW w1) fun _ => ret rfl

theorem idRtr (a b : RegIdx) (f : BitVec 1) (s : State) :
    EndsWithCode s (reportedCode s (.idRtr a b f)) (execIdRtr a b f s) :=
  index fun _ => last_index fun hb => last_read hb fun _ _ => ret rfl

theorem dataNew (a : RegIdx) (len : BitVec 8) (w1 w2 : Word) (s : State) :
    EndsWithCode s (reportedCode s (.dataNew a len w1 w2)) (execDataNew a len w1 w2 s) := by
  refine last_index fun _ => ?_
  show EndsWithCode s (firstCode true false false (if 8 < len.toNat then 1 else 0)) _
  by_cases hlen : 8 < len.toNat
  · rw [boundedLength_of_gt hlen, if_pos hlen]
    exact raise s .payloadTooLarge
  · rw [boundedLength_of_eq (n := ⟨len.toNat, by omega⟩) rfl, if_neg hlen]
    exact ret rfl

theorem dataView (a : RegIdx) (s : State) : EndsWithCode s (reportedCode s (.dataView a)) (execDataView a s) :=
  last_index fun ha => last_read ha fun _ _ => ret rfl

theorem dataRdb (a : RegIdx) (idx : BitVec 3) (s : State) :
    EndsWithCode s (reportedCode s (.dataRdb a idx)) (execDataRdb a idx s) :=
  last_index fun ha => last_read ha fun _ hd => lane hd (ret rfl)

theorem dataWrb (a : RegIdx) (idx : BitVec 3) (byte : Byte) (s : State) :
    EndsWithCode s (reportedCode s (.dataWrb a idx byte)) (execDataWrb a idx byte s) :=
  last_index fun ha => last_read ha fun _ hd => lane hd (ret rfl)

theorem frmNewd (a b : RegIdx) (w1 : Word) (s : State) :
    EndsWithCode s (reportedCode s (.frmNewd a b w1)) (execFrmNewd a b w1 s) :=
  index fun _ => last_index fun hb => operand (validatesId_decodeIdW w1) fun _ => last_read hb fun _ _ => ret rfl

theorem frmNewr (a : RegIdx) (dlc : BitVec 8) (w1 : Word) (s : State) :
    EndsWithCode s (reportedCode s (.frmNewr a dlc w1)) (execFrmNewr a dlc w1 s) := by
  refine last_index fun _ => operand (validatesId_decodeIdW w1) fun _ => ?_
  show EndsWithCode s (firstCode true false false (if 8 ≤ dlc.toNat then 2 else 0)) _
  by_cases hdlc : 8 ≤ dlc.toNat
  · rw [remoteDlc_of_ge hdlc, if_pos hdlc]
    exact raise s .invalidDlc
  · rw [remoteDlc_of_lt (n := ⟨dlc.toNat, by omega⟩) rfl (Nat.lt_of_not_le hdlc), if_neg hdlc]
    exact ret rfl

theorem frmData (a b : RegIdx) (s : State) : EndsWithCode s (reportedCode s (.frmData a b)) (execFrmData a b s) := by
  refine index fun _ => last_index fun hb => last_read hb fun fr _ => ?_
  split
  · exact ret rfl
  · exact ret rfl

theorem frmPrio (a b : RegIdx) (s : State) : EndsWithCode s (reportedCode s (.frmPrio a b)) (execFrmPrio a b s) :=
  index fun _ => last_index fun hb => last_read hb fun _ _ => ret rfl

theorem arbSel (mask : BitVec 8) (s : State) :
    EndsWithCode s (reportedCode s (.arbSel mask)) (execArbSel mask s) := by
  show EndsWithCode s (firstCode (maskLegal s.pr.length mask) false (readsUnwritten s (.arbSel mask)) 0)
    (exec (.arbSel mask) s)
  cases hlegal : maskLegal s.pr.length mask with
  | false =>
    obtain ⟨i, hi, hlen⟩ := maskLegal_eq_false.mp hlegal
    rw [exec_arbSel_of_missing (mem_maskIndices_iff.mpr hi) hlen, ← State.raise_indexRange]
    exact raise s .indexRange
  | true =>
    have hin := maskLegal_eq_true.mp hlegal
    cases hunwritten : readsUnwritten s (.arbSel mask) with
    | true =>
      obtain ⟨i, hi, hnone⟩ := readsUnwritten_arbSel.mp hunwritten
      rw [exec_arbSel_of_unwritten hin hi hnone, ← State.raise_unwritten]
      exact raise s .unwritten
    | false =>
      obtain ⟨cs, hcs⟩ := exists_readRegs fun i hi => written_of_selected hin hunwritten (mem_maskIndices_iff.mp hi)
      rw [exec_arbSel_of_inFile hin, hcs]
      exact ret rfl

end EndsWithCode

/-- Every command completes or raises the first error that applies to it (60_exceptions.md R249, R250). -/
theorem endsWithCode_exec (i : Instr) (s : State) : EndsWithCode s (reportedCode s i) (exec i s) := by
  rw [reportedCode_eq_firstCode]
  cases i with
  | idStd a w1 => exact .idStd a w1 s
  | idExt a w1 => exact .idExt a w1 s
  | idRtr a b f => exact .idRtr a b f s
  | dataNew a len w1 w2 => exact .dataNew a len w1 w2 s
  | dataEmpty => exact .last_index fun _ => .ret rfl
  | dataView a => exact .dataView a s
  | dataRdb a idx => exact .dataRdb a idx s
  | dataWrb a idx byte => exact .dataWrb a idx byte s
  | frmNewd a b w1 => exact .frmNewd a b w1 s
  | frmNewr a dlc w1 => exact .frmNewr a dlc w1 s
  | frmData a b => exact .frmData a b s
  | frmPrio a b => exact .frmPrio a b s
  | arbSel mask => exact .arbSel mask s
  | idCmp | dataEq | priCmp => exact .readTwoToRes0 _ _ _ _ s
  | dataFrom0 | dataFrom1 | dataFrom2 | dataFrom3 | dataFrom4 | dataFrom5 | dataFrom6 | dataFrom7 | dataFrom8 =>
    exact .dataFrom _ _ _ _ s
  | idIsExt | idIsStd | idGetRtr | idToId | idRaw | dataLen | dataIsEmpty | frmIsExt | frmIsStd | frmIsRem | frmIsData
    | frmId | frmDlc => exact .readToRes0 _ _ _ s

end Sys2Proof.Machine
end

section
/-!
Errors and STATUS (60_exceptions.md R240 to R251): what the reported code says of the command and of its next state, FAULT
after each step, and the run that ends at the first fault.
-/

namespace Sys2Proof.Machine

open Sys2Proof.Safety

/-! ### STATUS after a command -/

theorem statusWord_reserved (code : BitVec 4) (fault : Bool) : statusWord code fault &&& 0xFFFFFEF0 = 0 := by
  revert code fault; decide

/-- STATUS `st` becomes `st'` when a command completes or ends with an error (60_exceptions.md R240, R250). -/
def EndStatus (st st' : Word) : Prop := st' = statusAfterOk st ∨ ∃ e, st' = statusAfterError e st

namespace EndStatus

variable {st st' : Word} (h : EndStatus st st')
include h

theorem reserved : st' &&& 0xFFFFFEF0 = 0 := by
  obtain rfl | ⟨e, rfl⟩ := h
  · exact statusWord_reserved ..
  · exact statusWord_reserved ..

/-- FAULT is set by a code of 8 or more and kept by a smaller one (60_exceptions.md R250, R251). -/
theorem faultOf_eq : faultOf st' = (faultOf st || decide (8 ≤ (codeOf st').toNat)) := by
  obtain rfl | ⟨e, rfl⟩ := h
  · rw [faultOf_statusAfterOk, codeOf_statusAfterOk]
    exact (Bool.or_false _).symm
  · have hfault : e.isFault = decide (8 ≤ (e.number.zeroExtend 32).toNat) := by cases e <;> decide
    rw [codeOf_statusAfterError, ← hfault]
    exact statusFault_statusWord _ _

/-- The codes of 8 or more that a command ends with are those of the model faults (60_exceptions.md R241). -/
theorem faultOfCode_eq_none : faultOfCode (codeOf st') = none ↔ (codeOf st').toNat < 8 := by
  obtain rfl | ⟨e, rfl⟩ := h
  · rw [codeOf_statusAfterOk]
    decide
  · rw [codeOf_statusAfterError]
    cases e <;> decide

end EndStatus

/-! ### The end of a command -/

section
variable {i : Instr} {s t : State}

/-- What the next state of a command is, by the code it reports. -/
theorem exec_next_cases (h : exec i s = .next t) :
    (reportedCode s i = 0 ∧ ∃ u : State, u.status = s.status ∧ t = u.complete) ∨
      ∃ e : ErrorCode, reportedCode s i = e.number.zeroExtend 32 ∧ t = s.raise e := by
  have hend := endsWithCode_exec i s
  simpa only [h, EndsWithCode, Host.Outcome.next.injEq] using hend

theorem codeOf_exec (h : exec i s = .next t) : codeOf t.status = reportedCode s i := by
  obtain ⟨hc, u, -, rfl⟩ | ⟨e, hc, rfl⟩ := exec_next_cases h
  · exact (codeOf_statusAfterOk _).trans hc.symm
  · exact (codeOf_statusAfterError e _).trans hc.symm

theorem endStatus_exec (h : exec i s = .next t) : EndStatus s.status t.status := by
  obtain ⟨-, u, hst, rfl⟩ | ⟨e, -, rfl⟩ := exec_next_cases h
  · exact .inl (congrArg statusAfterOk hst)
  · exact .inr ⟨e, rfl⟩

/-- A command that ends with an error changes STATUS alone (60_exceptions.md R250). -/
theorem exec_changes_status_alone (h : exec i s = .next t) (hc : codeOf t.status ≠ 0) :
    t = { s with status := t.status } := by
  obtain ⟨hzero, -⟩ | ⟨e, -, rfl⟩ := exec_next_cases h
  · exact absurd ((codeOf_exec h).trans hzero) hc
  · rfl

end

section
variable {s : State} {ws rest : List Word} {acts : List HostAction} (hh : s.host = .issue ws :: acts)
  (hd : decode ws = .illegal rest)
include hh hd

/-- A step on an illegal packet consumes its words and raises IllegalCommand (60_exceptions.md R245). -/
theorem step_illegal : step s = .next (State.raise { s with host := afterPacket rest acts } .illegalCommand) := by
  simp only [step, hh, hd, presentRest_eq_afterPacket]

theorem codeOf_step_illegal : ∃ t, step s = .next t ∧ codeOf t.status = 8 :=
  ⟨_, step_illegal hh hd, codeOf_statusAfterError .illegalCommand _⟩

end

/-- Settles O44: the checks of each command stand in the order of R249. -/
theorem errorsAreReportedInPriorityOrder : Obligations.ErrorsAreReportedInPriorityOrder := by
  refine ⟨fun s ws rest acts => codeOf_step_illegal, fun i s => ?_⟩
  obtain ⟨t, ht⟩ := exec_next i s
  exact ⟨t, ht, codeOf_exec ht⟩

/-- Settles O45: a command raises its error from the state it started in, and so does an illegal packet. -/
theorem errorsChangeOnlyStatus : Obligations.ErrorsChangeOnlyStatus := by
  refine ⟨fun i s => ?_, fun s ws rest acts hh hd => ?_⟩
  · obtain ⟨t, ht⟩ := exec_next i s
    have hfault := (endStatus_exec ht).faultOf_eq
    refine ⟨t, ht, fun hc => ⟨exec_changes_status_alone ht hc, fun hge => ?_, fun hlt => ?_⟩⟩
    · rw [hfault, decide_eq_true hge, Bool.or_true]
    · rw [hfault, decide_eq_false (Nat.not_le.mpr hlt), Bool.or_false]
  · rw [step_illegal hh hd, State.raise_illegalCommand]
    rfl

/-! ### What raises each code -/

/-- The commands and conditions that raise each code of a command (60_exceptions.md R240). -/
inductive RaisedBy (s : State) (i : Instr) : Word → Prop where
  | nothing : RaisedBy s i 0
  | payloadTooLarge (h : i.mnemonic = .dataNew) : RaisedBy s i 1
  | invalidDlc (h : i.mnemonic = .frmNewr) : RaisedBy s i 2
  | invalidIdentifier (h : i.mnemonic ∈ [.idStd, .idExt, .frmNewd, .frmNewr]) : RaisedBy s i 3
  | indexRange (h : i.wellFormed s.sizes = false) : RaisedBy s i 9
  | unwritten (h : readsUnwritten s i = true) : RaisedBy s i 10
  | viewBounds (h : i.mnemonic ∈ [.dataRdb, .dataWrb]) : RaisedBy s i 11

theorem mnemonic_of_badIdentifier {i : Instr} (h : badIdentifier i = true) :
    i.mnemonic ∈ [.idStd, .idExt, .frmNewd, .frmNewr] := by
  cases i with
  | idStd | idExt | frmNewd | frmNewr => simp [Instr.mnemonic]
  | _ => exact absurd h Bool.false_ne_true

theorem RaisedBy.ite {s : State} {i : Instr} {c : Word} (p : Prop) [Decidable p] (h : RaisedBy s i c) :
    RaisedBy s i (if p then c else 0) := by
  split
  · exact h
  · exact .nothing

theorem raisedBy_ownCode (s : State) (i : Instr) : RaisedBy s i (ownCode s i) := by
  cases i with
  | dataNew => exact .ite _ (.payloadTooLarge rfl)
  | frmNewr => exact .ite _ (.invalidDlc rfl)
  | dataRdb | dataWrb => exact .ite _ (.viewBounds (by simp [Instr.mnemonic]))
  | _ => exact .nothing

theorem raisedBy_reportedCode (s : State) (i : Instr) : RaisedBy s i (reportedCode s i) := by
  unfold reportedCode
  split
  case isTrue hlegal => exact .indexRange (by simpa using hlegal)
  split
  case isTrue hbad => exact .invalidIdentifier (mnemonic_of_badIdentifier hbad)
  split
  case isTrue hunwritten => exact .unwritten hunwritten
  exact raisedBy_ownCode s i

/-- Settles O47: the code a command reports says which command and which condition raised it. -/
theorem statusCodesComeFromTheirCommands : Obligations.StatusCodesComeFromTheirCommands := by
  refine ⟨fun s ws rest acts => codeOf_step_illegal, fun i s t ht => ?_⟩
  have hres : codeOf t.status ≠ 0 → t.res0 = s.res0 ∧ t.res1 = s.res1 ∧ t.res2 = s.res2 := fun hc => by
    rw [exec_changes_status_alone ht hc]
    exact ⟨rfl, rfl, rfl⟩
  have hraised : RaisedBy s i (codeOf t.status) := codeOf_exec ht ▸ raisedBy_reportedCode s i
  rw [and_left_comm]
  refine ⟨(endStatus_exec ht).reserved, ?_⟩
  generalize codeOf t.status = c at hres hraised ⊢
  cases hraised with
  | nothing => simp
  | payloadTooLarge h | invalidDlc h | indexRange h | unwritten h => simp [h, hres]
  | invalidIdentifier h | viewBounds h => simpa [hres] using h

/-! ### IndexRange -/

theorem reportedCode_eq_nine {s : State} {i : Instr} : reportedCode s i = 9 ↔ i.wellFormed s.sizes = false := by
  refine ⟨fun hc => ?_, fun h => by simp [reportedCode, h]⟩
  have hraised : RaisedBy s i 9 := hc ▸ raisedBy_reportedCode s i
  cases hraised with
  | indexRange h => exact h

theorem indexLegal_eight (a : RegIdx) : indexLegal 8 a = true := decide_eq_true a.isLt

/-- With eight registers in every file each index and each MASK bit names one (60_exceptions.md R246). -/
theorem wellFormed_eight (i : Instr) : i.wellFormed ⟨8, 8, 8, 8⟩ = true := by
  cases i with
  | arbSel mask => exact maskLegal_eq_true.mpr fun _ => BitVec.lt_of_getLsbD
  | _ => simp only [Instr.wellFormed, indexLegal_eight, Bool.and_self]

/-- Settles O48: IndexRange comes first in the order, and a 3-bit index is below 8. -/
theorem indexRangeMeansNoSuchRegister : Obligations.IndexRangeMeansNoSuchRegister := by
  intro i s
  obtain ⟨t, ht⟩ := exec_next i s
  refine ⟨t, ht, ?_⟩
  rw [codeOf_exec ht, Ne, reportedCode_eq_nine]
  exact ⟨Iff.rfl, fun hsizes => by simp [hsizes, wellFormed_eight]⟩

/-! ### FAULT -/

/-- The words presented hold no packet exactly when there is none. -/
theorem decode_eq_nothing {ws : List Word} : decode ws = .nothing ↔ ws = [] := by
  cases ws with
  | nil => simp [decode]
  | cons h ws =>
    refine iff_of_false (fun hd => ?_) (List.cons_ne_nil h ws)
    obtain hlt | hge := Nat.lt_or_ge ws.length (packetOperands h)
    · cases (decode_of_short hlt).symm.trans hd
    · obtain hi | ⟨i, hi⟩ := decode_of_enough hge <;> cases hi.symm.trans hd

theorem presentsPacket_of_issue {s : State} {ws : List Word} {acts : List HostAction} (hh : s.host = .issue ws :: acts)
    (hd : decode ws ≠ .nothing) : presentsPacket s = true := by
  obtain ⟨w, ws, rfl⟩ := List.exists_cons_of_ne_nil (mt decode_eq_nothing.mpr hd)
  simp only [presentsPacket, hh]

/-- The host's next action is a reset. -/
def ResetsNext (s : State) : Prop := ∃ ws acts, s.host = .reset ws :: acts

/-- STATUS after a step: as it was with no packet presented, 0 after a reset, and otherwise what a command's end leaves. -/
theorem step_status_cases {s t : State} (h : step s = .next t) :
    (presentsPacket s = false ∧ ¬ ResetsNext s ∧ t.status = s.status) ∨
    (presentsPacket s = false ∧ ResetsNext s ∧ t.status = 0) ∨
    (presentsPacket s = true ∧ ¬ ResetsNext s ∧ EndStatus s.status t.status) := by
  obtain ⟨hh, rfl⟩ | ⟨p, acts, hh, rfl⟩ | ⟨ws, acts, hh, rfl⟩ | ⟨ws, acts, hh, hpacket⟩ := step_next_cases h
  · exact .inl ⟨by simp [presentsPacket, hh], by simp [ResetsNext, hh], rfl⟩
  · exact .inl ⟨by simp [presentsPacket, hh], by simp [ResetsNext, hh], rfl⟩
  · exact .inr (.inl ⟨by simp [presentsPacket, hh], ⟨ws, acts, hh⟩, rfl⟩)
  · have hreset : ¬ ResetsNext s := by simp [ResetsNext, hh]
    obtain ⟨hd, rfl⟩ | ⟨rest, hd, rfl⟩ | ⟨i, rest, hd, he⟩ := hpacket
    · obtain rfl := decode_eq_nothing.mp hd
      exact .inl ⟨by simp [presentsPacket, hh], hreset, rfl⟩
    · exact .inr (.inr ⟨presentsPacket_of_issue hh (by simp [hd]), hreset, .inr ⟨_, rfl⟩⟩)
    · have hend := endStatus_exec he
      exact .inr (.inr ⟨presentsPacket_of_issue hh (by simp [hd]), hreset, hend⟩)

/-- FAULT after a step: clear after a reset, and otherwise set if it was, or by a packet that ends with a code of 8 or more
(60_exceptions.md R251). -/
theorem faultOf_step {s t : State} (h : step s = .next t) :
    (ResetsNext s → faultOf t.status = false) ∧
    (¬ ResetsNext s →
      faultOf t.status = (faultOf s.status || (presentsPacket s && decide (8 ≤ (codeOf t.status).toNat)))) := by
  obtain ⟨hp, hr, hst⟩ | ⟨-, hr, hst⟩ | ⟨hp, hr, hend⟩ := step_status_cases h
  · exact ⟨fun h => absurd h hr, fun _ => by simp [hp, hst]⟩
  · exact ⟨fun _ => hst ▸ rfl, fun h => absurd hr h⟩
  · exact ⟨fun h => absurd h hr, fun _ => by rw [hp, Bool.true_and, hend.faultOf_eq]⟩

/-- Without a packet that ends with a code of 8 or more FAULT stays clear. -/
theorem noFault_step {s t : State} (h : step s = .next t) (hcode : presentsPacket s = true → (codeOf t.status).toNat < 8)
    (hs : noFault s = true) : noFault t = true := by
  obtain ⟨hclear, hkept⟩ := faultOf_step h
  simp only [noFault, Bool.not_eq_true'] at hs ⊢
  by_cases hr : ResetsNext s
  · exact hclear hr
  · rw [hkept hr, hs, Bool.false_or, Bool.and_eq_false_imp]
    exact fun hp => decide_eq_false (Nat.not_le.mpr (hcode hp))

/-- Settles O46: FAULT after a step without a reset is its value before or that of the packet's code. -/
theorem faultFlagIsSticky : Obligations.FaultFlagIsSticky := by
  intro s t hst
  obtain ⟨hclear, hkept⟩ := faultOf_step hst
  refine ⟨fun hno hf => ?_, fun hno hf => ?_, hclear⟩ <;> rw [hkept fun ⟨ws, acts, hh⟩ => hno ws acts hh, hf]
  · exact Bool.true_or _
  · simp

/-! ### Claims about a run -/

section
variable {s t : State}

theorem endStatus_step (h : step s = .next t) (hp : presentsPacket s = true) : EndStatus s.status t.status := by
  obtain ⟨hno, -⟩ | ⟨hno, -⟩ | ⟨-, -, hend⟩ := step_status_cases h
  · exact absurd hp (ne_true_of_eq_false hno)
  · exact absurd hp (ne_true_of_eq_false hno)
  · exact hend

theorem claimStep_of_fault {f : Fault} (hs : step s = .next t) (hp : presentsPacket s = true)
    (hf : faultOfCode (codeOf t.status) = some f) : claimStep s = .fault f := by
  simp only [claimStep, hs, hp, if_true, hf]

/-- A claimed run goes on with the hardware's step, unless a packet ended with a fault code (60_exceptions.md R241). -/
theorem claimStep_eq_next : claimStep s = .next t ↔
    step s = .next t ∧ (presentsPacket s = true → faultOfCode (codeOf t.status) = none) := by
  cases hs : step s with
  | next u =>
    cases hp : presentsPacket s with
    | false => simp [claimStep, hs, hp]
    | true =>
      cases hf : faultOfCode (codeOf u.status) with
      | none =>
        simp only [claimStep, hs, hp, if_true, hf, Host.Outcome.next.injEq, forall_const]
        exact (and_iff_left_of_imp fun hut => hut ▸ hf).symm
      | some f =>
        simp only [claimStep, hs, hp, if_true, hf, reduceCtorEq, Host.Outcome.next.injEq, forall_const, false_iff, not_and]
        rintro rfl hnone
        cases hf.symm.trans hnone
  | fault f => simp [claimStep, hs]
  | refused r => simp [claimStep, hs]

end

/-- Settles O49: the model faults are those of the codes from 8 on, and a smaller code keeps FAULT. -/
theorem claimedRunsEndAtTheFirstFault : Obligations.ClaimedRunsEndAtTheFirstFault := by
  refine fun s => ⟨fun t hs hp hge => ?_, fun t hs hp hlt => ?_, fun t hc => ?_⟩
  · have hsome : faultOfCode (codeOf t.status) ≠ none :=
      mt (endStatus_step hs hp).faultOfCode_eq_none.mp (Nat.not_lt.mpr hge)
    obtain ⟨f, hf⟩ := Option.ne_none_iff_exists'.mp hsome
    exact ⟨f, hf, claimStep_of_fault hs hp hf⟩
  · exact claimStep_eq_next.mpr ⟨hs, fun _ => (endStatus_step hs hp).faultOfCode_eq_none.mpr hlt⟩
  · obtain ⟨hs, hnone⟩ := claimStep_eq_next.mp hc
    exact ⟨hs, noFault_step hs fun hp => (endStatus_step hs hp).faultOfCode_eq_none.mp (hnone hp)⟩

end Sys2Proof.Machine
end
